-- ==== Sys2Proof/Word.lean ====
section
/-! DEFINITION. The two units of data the block handles: bytes and 128-bit words (spec/00_scope.md
section 6, spec/20_memory.md R32). The order of the bytes inside a word is decided in
`Machine/Bytes.lean`. -/

namespace Sys2Proof

/-- A byte, 8 bits; bit 0 is the least significant (00_scope.md section 6). -/
abbrev Byte := BitVec 8

/-- A word, 128 bits (R2, `WORD_BITS`): a key, a nonce, a tag, a round key, a register word or a
message word. Byte `w[0]` of the spec is the most significant byte of the vector, so that a word
written in hexadecimal reads as the spec prints it, `w[0]` first; no rule reads a word as a number
(R33), so the choice has no effect. -/
abbrev Word := BitVec 128

/-- `ZERO`, the word of 16 zero bytes. -/
abbrev zeroWord : Word := 0#128

end Sys2Proof
end

