-- ==== Sys2Proof/Machine/Bytes.lean ====
section
/-! DEFINITION. The order of bytes in words and in integers (spec/20_memory.md R32, R33). -/

namespace Sys2Proof.Machine

/-- Byte `w[k]` of a word, `k` = 0..15 (R32). -/
def byteAt (w : Word) (k : Nat) : Byte :=
  w.extractLsb' (8 * (15 - k)) 8

/-- The number whose bytes, most significant first, are the list. -/
def beNat : List Byte → Nat
  | [] => 0
  | b :: bs => b.toNat * 256 ^ bs.length + beNat bs

/-- The word whose bytes `w[0], w[1], ...` are the list, for a list of 16 bytes (R32). -/
def wordOfBytes (bs : List Byte) : Word :=
  BitVec.ofNat 128 (beNat bs)

/-- The 16 bytes of a word in stream order, `w[0]` first (R32). -/
def wordBytes (w : Word) : List Byte :=
  (List.range 16).map (byteAt w)

/-- `le_N(n)` as `k` bytes, `N = 8k`: least significant byte first (00_scope.md section 6, R33). -/
def leBytes : Nat → Nat → List Byte
  | 0, _ => []
  | k + 1, n => BitVec.ofNat 8 n :: leBytes k (n / 256)

/-- The unsigned integer a little-endian byte sequence holds (R33). -/
def leNat : List Byte → Nat
  | [] => 0
  | b :: bs => b.toNat + 256 * leNat bs

end Sys2Proof.Machine
end

