-- ==== Sys2Proof/Machine/Cipher.lean ====
section
/-! DEFINITION. The AES-round engine, pure functions on bytes and words (spec/40_block_cipher.md). -/

namespace Sys2Proof.Machine

/-- Multiplication by `x` in the field of R70. -/
def xtime (a : Byte) : Byte :=
  if a.msb then (a <<< 1) ^^^ 0x1B else a <<< 1

/-- `mul2` of R70. -/
def mul2 (a : Byte) : Byte :=
  xtime a

/-- `mul3` of R70. -/
def mul3 (a : Byte) : Byte :=
  xtime a ^^^ a

/-- The part of `gmul(a, b)` that the low `n` bits of `b` give. -/
def gmulBits : Nat → Byte → Byte → Byte
  | 0, _, _ => 0
  | n + 1, a, b => (if b.getLsbD 0 then a else 0) ^^^ gmulBits n (xtime a) (b >>> 1)

/-- `gmul(a, b)`: the XOR of `xtime^k(a)` over every bit `k` set in `b` (R70). -/
def gmul (a b : Byte) : Byte :=
  gmulBits 8 a b

/-- The product of the powers `a^2, a^4, ..., a^(2^n)` of a field element. -/
def squaresProduct : Nat → Byte → Byte
  | 0, _ => 0x01
  | n + 1, a => gmul (gmul a a) (squaresProduct n (gmul a a))

/-- `inv(a)` of R70: the 254th power, `a^2 a^4 ... a^128`, which is 0 at 0. -/
def inv (a : Byte) : Byte :=
  squaresProduct 7 a

/-- The table of R71, one word per row: byte `k` of row `r` is `S(16 r + k)`. -/
def sboxRows : List Word :=
  [0x637c777bf26b6fc53001672bfed7ab76, 0xca82c97dfa5947f0add4a2af9ca472c0,
   0xb7fd9326363ff7cc34a5e5f171d83115, 0x04c723c31896059a071280e2eb27b275,
   0x09832c1a1b6e5aa0523bd6b329e32f84, 0x53d100ed20fcb15b6acbbe394a4c58cf,
   0xd0efaafb434d338545f9027f503c9fa8, 0x51a3408f929d38f5bcb6da2110fff3d2,
   0xcd0c13ec5f974417c4a77e3d645d1973, 0x60814fdc222a908846eeb814de5e0bdb,
   0xe0323a0a4906245cc2d3ac629195e479, 0xe7c8376d8dd54ea96c56f4ea657aae08,
   0xba78252e1ca6b4c6e8dd741f4bbd8b8a, 0x703eb5664803f60e613557b986c11d9e,
   0xe1f8981169d98e949b1e87e9ce5528df, 0x8ca1890dbfe6426841992d0fb054bb16]

/-- The byte substitution `S`, by its table (R71). -/
def sbox (a : Byte) : Byte :=
  byteAt (sboxRows.getD (a.toNat / 16) zeroWord) (a.toNat % 16)

/-- `S` as R71 defines it: the affine map of the inverse. -/
def sboxAffine (a : Byte) : Byte :=
  let b := inv a
  b ^^^ b.rotateLeft 1 ^^^ b.rotateLeft 2 ^^^ b.rotateLeft 3 ^^^ b.rotateLeft 4 ^^^ 0x63

/-- `SubBytes` (R72). -/
def subBytes (w : Word) : Word :=
  wordOfBytes ((wordBytes w).map sbox)

/-- The index of the input byte that becomes byte `k`, `k = r + 4c`, of `ShiftRows` (R73). -/
def shiftSource (k : Nat) : Nat :=
  k % 4 + 4 * ((k / 4 + k % 4) % 4)

/-- `ShiftRows` (R73). -/
def shiftRows (w : Word) : Word :=
  wordOfBytes ((List.range 16).map fun k => byteAt w (shiftSource k))

/-- One column of `MixColumns` (R74). -/
def mixColumn (a0 a1 a2 a3 : Byte) : List Byte :=
  [mul2 a0 ^^^ mul3 a1 ^^^ a2 ^^^ a3,
   a0 ^^^ mul2 a1 ^^^ mul3 a2 ^^^ a3,
   a0 ^^^ a1 ^^^ mul2 a2 ^^^ mul3 a3,
   mul3 a0 ^^^ a1 ^^^ a2 ^^^ mul2 a3]

/-- `MixColumns` (R74). -/
def mixColumns (w : Word) : Word :=
  wordOfBytes ((List.range 4).flatMap fun c =>
    mixColumn (byteAt w (4 * c)) (byteAt w (4 * c + 1)) (byteAt w (4 * c + 2))
      (byteAt w (4 * c + 3)))

/-- `AddRoundKey`, the whitening (R75). -/
def addRoundKey (w k : Word) : Word :=
  w ^^^ k

/-- `AESRound`, the full round (R76). -/
def aesRound (x k : Word) : Word :=
  addRoundKey (mixColumns (shiftRows (subBytes x))) k

/-- `AESFinalRound`, the round without the column mix (R77). -/
def aesFinalRound (x k : Word) : Word :=
  addRoundKey (shiftRows (subBytes x)) k

/-- The word that leaves whitening with `w[0]` and full rounds with `w[1]` to `w[n]`: the part that
`encrypt` and `permute_truncated` share (R78, R79). -/
def whitenedRounds {m : Nat} (w : Vector Word m) (b : Word) : Nat → Word
  | 0 => addRoundKey b (w[0]?.getD zeroWord)
  | n + 1 => aesRound (whitenedRounds w b n) (w[n + 1]?.getD zeroWord)

/-- `encrypt` (R78): whitening, nine full rounds, the final round. -/
def encrypt (sched : Vector Word 11) (b : Word) : Word :=
  aesFinalRound (whitenedRounds sched b 9) sched[10]

/-- `permute_truncated` (R79): whitening, nine full rounds, one full round with a zero key. -/
def permuteTruncated (w : Vector Word 10) (b : Word) : Word :=
  aesRound (whitenedRounds w b 9) zeroWord

end Sys2Proof.Machine
end

