-- ==== Sys2Proof/Config.lean ====
section
/-! DEFINITION. What the spec leaves open and the model fixes as a parameter (spec/00_scope.md R2,
R3), and the free values: what reading a store that holds no value gives (spec/10_state.md R24). -/

namespace Sys2Proof

/-- The block words that may key an AES round of the absorption: the constraint
`KEYSEL[j]` in (`m0`, `m1`, `m3`) of 43_absorption.md R111. -/
inductive KeyWord
  | m0
  | m1
  | m3
  deriving DecidableEq, Repr

/-- The byte order of the counter block, the parameter `CTR_ORDER` of R3. -/
inductive ByteOrder
  | little
  | big
  deriving DecidableEq, Repr

/-- The parameters of R3 that change the function the block computes. -/
structure Params where
  /-- `KEYSEL[1..8]`: entry `j - 1` keys the AES round that produces role `j` (R111). -/
  keySel : Vector KeyWord 8
  /-- `FB_BASE`: the roles whose words are XORed into the feedback word before `m2` and the tap
  (R110, decision D9). -/
  fbBase : List (Fin 9)
  /-- `CTR_ORDER`: the byte order of the counter block (R100, decision D5). -/
  ctrOrder : ByteOrder
  deriving DecidableEq, Repr

/-- The defaults of R3, for which every rule of the spec is written. DESIGN CHOICE (log entry 5). -/
def Config.params : Params where
  keySel := #v[.m3, .m3, .m0, .m0, .m0, .m1, .m1, .m3]
  fbBase := [8]
  ctrOrder := .little

/-- `MIN_LEN` of R2: the least message length a MAC command accepts, in bytes. -/
abbrev Config.minLen : Nat := 192

/-- `BLOCK_BYTES` of R2: the bytes in one message block. -/
abbrev Config.blockBytes : Nat := 64

/-- `PAD_BYTE` of R2: the byte appended after the last message byte. -/
abbrev Config.padByte : Byte := 0x01

/-- `CTR_FK1` of R2: the counter that makes the key of `finalize_key_1`. -/
abbrev Config.ctrFk1 : Nat := 27

/-- `CTR_FK2` of R2: the counter that makes the key of `finalize_key_2`. -/
abbrev Config.ctrFk2 : Nat := 28

/-- The stores of words that can hold no value (R24). -/
inductive Store
  | init
  | pool
  | fk1
  | fk2
  | x
  | t0
  | ki
  | key
  | nonce
  | hist
  deriving DecidableEq, Repr

/-- The sequencer counters (R19), which are unspecified until they are written (R23). -/
inductive Counter
  | t
  | c
  | i
  deriving DecidableEq, Repr

/-- Free value: what a read of word `k` of a store gives while that word holds no value or does not
exist. R24 says no rule reads one; the value has no definition, so nothing can be proved of it.
DESIGN CHOICE (log entry 2). -/
opaque Config.absentWord : Store → Nat → Word

/-- Free value: what a read of the length latch gives while it holds no value. DESIGN CHOICE (log
entry 2). -/
opaque Config.absentLen : BitVec 64

/-- Free value: what a read of the message latch gives while it holds no value. DESIGN CHOICE (log
entry 2). -/
opaque Config.absentMsg : List Byte

/-- Free value: what a read of a sequencer counter gives while it holds no value. DESIGN CHOICE
(log entry 2). -/
opaque Config.absentCount : Counter → Nat

end Sys2Proof
end

