-- ==== Sys2Proof/Syntax.lean ====
section
/-! DEFINITION. The instructions of the block: the rows of spec/opcode_table.json, one constructor
each, and the two places an instruction is encoded in (spec/30_encoding.md). -/

namespace Sys2Proof

/-- `PHASE`, the sequencer's place: the twenty values of 30_encoding.md R56. -/
inductive Phase
  | idle
  | ctxKs
  | ctxInit
  | ctxPool
  | ctxFk1
  | ctxFk2
  | macCheck
  | auLoad
  | auWarmup1
  | auWarmup2
  | auWarmup3
  | auSteady
  | auPad
  | auDrain1
  | auDrain2
  | auDrain3
  | finNonce
  | finFold
  | finTag
  | faultHalt
  deriving DecidableEq, Repr

/-- One constructor per row of spec/opcode_table.json: the two commands and the illegal opcode,
with the operands their packets carry (R51, R52, R55), and the twenty values of `PHASE` (R56),
which carry none (R57). -/
inductive Instr
  /-- DERIVE, format D (R51, R141). -/
  | derive (key : Word)
  /-- MAC, format M (R52, R142): the nonce, the field `LEN` and the message bytes. -/
  | mac (nonce : Word) (len : BitVec 64) (msg : List Byte)
  /-- The row "(illegal)": an opcode byte other than `0x01` and `0x02` (R55, R163). -/
  | illegal (opcode : Byte)
  /-- IDLE: wait for and accept a command (R140). -/
  | idle
  /-- CTX.KS (R101). -/
  | ctxKs
  /-- CTX.INIT (R102). -/
  | ctxInit
  /-- CTX.POOL (R103). -/
  | ctxPool
  /-- CTX.FK1 (R104). -/
  | ctxFk1
  /-- CTX.FK2 (R105). -/
  | ctxFk2
  /-- MAC.CHECK (R143). -/
  | macCheck
  /-- AU.LOAD (R121). -/
  | auLoad
  /-- AU.WARMUP1 (R113). -/
  | auWarmup1
  /-- AU.WARMUP2 (R114). -/
  | auWarmup2
  /-- AU.WARMUP3 (R115). -/
  | auWarmup3
  /-- AU.STEADY (R112). -/
  | auSteady
  /-- AU.PAD (R116). -/
  | auPad
  /-- AU.DRAIN1 (R117). -/
  | auDrain1
  /-- AU.DRAIN2 (R118). -/
  | auDrain2
  /-- AU.DRAIN3 (R119). -/
  | auDrain3
  /-- FIN.NONCE (R131). -/
  | finNonce
  /-- FIN.FOLD (R132). -/
  | finFold
  /-- FIN.TAG (R133). -/
  | finTag
  /-- FAULT_HALT (R163). -/
  | faultHalt
  deriving DecidableEq, Repr

/-- Where an instruction's bits stand (the table's "match_on"): a packet on the command stream `IN`,
or a code of the 5-bit `PHASE` register, which is never on a stream (R56). -/
inductive Code
  | packet (bytes : List Byte)
  | phase (code : BitVec 5)
  deriving DecidableEq, Repr

end Sys2Proof
end

