-- ==== Sys2Proof/WellFormed.lean ====
section
/-! DEFINITION. Which terms of `Instr` are instructions of the block (spec/30_encoding.md R51 to R55). -/

namespace Sys2Proof

/-- A MAC carries as many message bytes as its field `LEN` says (R52); the row "(illegal)" is an
opcode byte other than the two commands' (R55). Every other term is well formed: every key and
nonce is legal, and the micro-operations take no operand (R51, R52, R57). -/
def Instr.wf : Instr → Bool
  | .mac _ len msg => msg.length == len.toNat
  | .illegal b => b != 0x01 && b != 0x02
  | .derive _ | .idle | .ctxKs | .ctxInit | .ctxPool | .ctxFk1 | .ctxFk2 | .macCheck | .auLoad
  | .auWarmup1 | .auWarmup2 | .auWarmup3 | .auSteady | .auPad | .auDrain1 | .auDrain2 | .auDrain3
  | .finNonce | .finFold | .finTag | .faultHalt => true

/-- The rows a packet on `IN` encodes (R50, R55); the others are codes of `PHASE` (R56). -/
def Instr.onStream : Instr → Bool
  | .derive _ | .mac _ _ _ | .illegal _ => true
  | .idle | .ctxKs | .ctxInit | .ctxPool | .ctxFk1 | .ctxFk2 | .macCheck | .auLoad
  | .auWarmup1 | .auWarmup2 | .auWarmup3 | .auSteady | .auPad | .auDrain1 | .auDrain2 | .auDrain3
  | .finNonce | .finFold | .finTag | .faultHalt => false

end Sys2Proof
end

