-- ==== Sys2Proof/Decode.lean ====
section
/-! DEFINITION. The decoder and the encoder (spec/30_encoding.md R50 to R57): packets on `IN`, codes of
`PHASE`, and the word of the opcode table. -/

namespace Sys2Proof

open Machine (wordOfBytes wordBytes leNat leBytes)

/-- Why the decoder reads no instruction. A packet that has not fully arrived is not a command
(R53): the block waits. -/
inductive DecodeStop
  /-- `IN` is empty. -/
  | empty
  /-- Fewer than 17 bytes of a DERIVE packet are there. -/
  | deriveIncomplete
  /-- Fewer than 25 bytes of a MAC packet are there, so its length is not known. -/
  | macHeaderIncomplete
  /-- The header of a MAC packet is there and not all the message bytes it announces. -/
  | macMessageIncomplete
  /-- One of the twelve codes that `PHASE` never takes (R56). -/
  | unusedPhase (code : BitVec 5)
  deriving DecidableEq, Repr

/-- Reads the packet at the head of a byte stream and gives it with the bytes after it
(R51, R52, R53, R55): the opcode byte is decoded in full. -/
def decodePacket : List Byte → Except DecodeStop (Instr × List Byte)
  | [] => .error .empty
  | b :: rest =>
    if b = 0x01 then
      if rest.length < 16 then .error .deriveIncomplete
      else .ok (.derive (wordOfBytes (rest.take 16)), rest.drop 16)
    else if b = 0x02 then
      if rest.length < 24 then .error .macHeaderIncomplete
      else
        let len := BitVec.ofNat 64 (leNat ((rest.drop 16).take 8))
        if rest.length < 24 + len.toNat then .error .macMessageIncomplete
        else .ok (.mac (wordOfBytes (rest.take 16)) len ((rest.drop 24).take len.toNat),
          rest.drop (24 + len.toNat))
    else .ok (.illegal b, rest)

/-- The instruction a `PHASE` value stands for (R56, R144). -/
def phaseInstr : Phase → Instr
  | .idle => .idle
  | .ctxKs => .ctxKs
  | .ctxInit => .ctxInit
  | .ctxPool => .ctxPool
  | .ctxFk1 => .ctxFk1
  | .ctxFk2 => .ctxFk2
  | .macCheck => .macCheck
  | .auLoad => .auLoad
  | .auWarmup1 => .auWarmup1
  | .auWarmup2 => .auWarmup2
  | .auWarmup3 => .auWarmup3
  | .auSteady => .auSteady
  | .auPad => .auPad
  | .auDrain1 => .auDrain1
  | .auDrain2 => .auDrain2
  | .auDrain3 => .auDrain3
  | .finNonce => .finNonce
  | .finFold => .finFold
  | .finTag => .finTag
  | .faultHalt => .faultHalt

/-- The `PHASE` value of a code, as the table of R56 has it. -/
def phaseTable : List (Nat × Phase) :=
  [(0x00, .idle), (0x01, .ctxKs), (0x02, .ctxInit), (0x03, .ctxPool), (0x04, .ctxFk1),
   (0x05, .ctxFk2), (0x08, .macCheck), (0x09, .auLoad), (0x0A, .auWarmup1), (0x0B, .auWarmup2),
   (0x0C, .auWarmup3), (0x0D, .auSteady), (0x0E, .auPad), (0x0F, .auDrain1), (0x10, .auDrain2),
   (0x11, .auDrain3), (0x12, .finNonce), (0x13, .finFold), (0x14, .finTag), (0x1F, .faultHalt)]

/-- The `PHASE` value of a 5-bit code; the twelve unused codes have none (R56). -/
def phaseOfCode (code : BitVec 5) : Option Phase :=
  phaseTable.lookup code.toNat

/-- Decodes an instruction where it stands, and gives it with the bytes left on the stream. -/
def decode : Code → Except DecodeStop (Instr × List Byte)
  | .packet bytes => decodePacket bytes
  | .phase code =>
    match phaseOfCode code with
    | some p => .ok (phaseInstr p, [])
    | none => .error (.unusedPhase code)

/-- The code of a `PHASE` value (R56). -/
def phaseCode : Phase → BitVec 5
  | .idle => 0x00
  | .ctxKs => 0x01
  | .ctxInit => 0x02
  | .ctxPool => 0x03
  | .ctxFk1 => 0x04
  | .ctxFk2 => 0x05
  | .macCheck => 0x08
  | .auLoad => 0x09
  | .auWarmup1 => 0x0A
  | .auWarmup2 => 0x0B
  | .auWarmup3 => 0x0C
  | .auSteady => 0x0D
  | .auPad => 0x0E
  | .auDrain1 => 0x0F
  | .auDrain2 => 0x10
  | .auDrain3 => 0x11
  | .finNonce => 0x12
  | .finFold => 0x13
  | .finTag => 0x14
  | .faultHalt => 0x1F

/-- Format D (R51). -/
def encodeDerive (key : Word) : List Byte :=
  0x01 :: wordBytes key

/-- Format M (R52): opcode, nonce, `le_64(L)`, message. -/
def encodeMac (nonce : Word) (len : BitVec 64) (msg : List Byte) : List Byte :=
  0x02 :: (wordBytes nonce ++ (leBytes 8 len.toNat ++ msg))

/-- The encoding of an instruction (R51, R52, R55, R56). -/
def encode : Instr → Code
  | .derive key => .packet (encodeDerive key)
  | .mac nonce len msg => .packet (encodeMac nonce len msg)
  | .illegal b => .packet [b]
  | .idle => .phase (phaseCode .idle)
  | .ctxKs => .phase (phaseCode .ctxKs)
  | .ctxInit => .phase (phaseCode .ctxInit)
  | .ctxPool => .phase (phaseCode .ctxPool)
  | .ctxFk1 => .phase (phaseCode .ctxFk1)
  | .ctxFk2 => .phase (phaseCode .ctxFk2)
  | .macCheck => .phase (phaseCode .macCheck)
  | .auLoad => .phase (phaseCode .auLoad)
  | .auWarmup1 => .phase (phaseCode .auWarmup1)
  | .auWarmup2 => .phase (phaseCode .auWarmup2)
  | .auWarmup3 => .phase (phaseCode .auWarmup3)
  | .auSteady => .phase (phaseCode .auSteady)
  | .auPad => .phase (phaseCode .auPad)
  | .auDrain1 => .phase (phaseCode .auDrain1)
  | .auDrain2 => .phase (phaseCode .auDrain2)
  | .auDrain3 => .phase (phaseCode .auDrain3)
  | .finNonce => .phase (phaseCode .finNonce)
  | .finFold => .phase (phaseCode .finFold)
  | .finTag => .phase (phaseCode .finTag)
  | .faultHalt => .phase (phaseCode .faultHalt)

/-- The bytes of a code on the stream; a `PHASE` code has none (R56). -/
def codeBytes : Code → List Byte
  | .packet bytes => bytes
  | .phase _ => []

/-- The bytes of a packet on `IN`. A `PHASE` code is never on a stream (R56). -/
def encodePacket (i : Instr) : List Byte :=
  codeBytes (encode i)

/-- How many bytes of `IN` the packet of a command takes (R51, R52, R55). -/
def packetLength : Instr → Nat
  | .derive _ => 17
  | .mac _ len _ => 25 + len.toNat
  | .illegal _ => 1
  | .idle | .ctxKs | .ctxInit | .ctxPool | .ctxFk1 | .ctxFk2 | .macCheck | .auLoad
  | .auWarmup1 | .auWarmup2 | .auWarmup3 | .auSteady | .auPad | .auDrain1 | .auDrain2 | .auDrain3
  | .finNonce | .finFold | .finTag | .faultHalt => 0

/-- The bytes a table word lays on the stream: its first byte, then as many as the packet that byte
opens needs (R53), every bit that the word does not have being 0. -/
def tableBytes (w : Nat) : List Byte :=
  let header := leBytes 25 w
  if header.take 1 = [0x01] then header.take 17
  else if header.take 1 = [0x02] then leBytes (25 + leNat (header.drop 17)) w
  else header.take 1

/-- Where a table word stands. The table numbers two code spaces alike, both in the first byte: the
opcode byte of `IN` and the `PHASE` register. A word of 1 to 7 bits is a `PHASE` code, a word of 0
bits (the row "(illegal)", to which the table gives none) is on the stream; of the others, the two
legal opcodes are packets, the other used `PHASE` codes are codes of `PHASE`, and what is left is an
illegal opcode byte. DESIGN CHOICE (log entry 9): the two words `0x01`, `0x02` name two rows each. -/
def tableCode (nbits w : Nat) : Code :=
  let code := BitVec.ofNat 5 w
  if nbits = 0 then .packet (tableBytes w)
  else if nbits < 8 then .phase code
  else if w % 256 = 0x01 ∨ w % 256 = 0x02 then .packet (tableBytes w)
  else if w % 256 < 32 ∧ (phaseOfCode code).isSome then .phase code
  else .packet (tableBytes w)

/-- The instruction the decoder reads from a word of the opcode table. -/
def decodeTableWord (nbits w : Nat) : Option Instr :=
  match decode (tableCode nbits w) with
  | .ok (i, _) => some i
  | .error _ => none

end Sys2Proof
end

