-- ==== Sys2Proof/Machine/State.lean ====
section
/-! DEFINITION. The state of the block (spec/10_state.md), its value after reset (R23), and why a step
can stop. -/

namespace Sys2Proof.Machine

/-- Why a run stops with a fault: never. No rule of the spec gives the block a stop. Its one fault,
FAULT_ILLEGAL_COMMAND, is a state it enters and stays in (R163), and a store that holds no value
reads as a free value (log entry 2). -/
inductive Fault
  deriving DecidableEq, Repr

/-- Why an instruction has no meaning in this model. -/
inductive Refusal
  /-- Raised by `exec` alone, for a row of the opcode table that has no meaning yet: no row is left
  so. Safe. -/
  | notModelled (mnemonic : String)
  deriving DecidableEq, Repr

/-- The message space (R31): address `a` names byte `msg[a]`, `0 <= a < L`. A list is its one
canonical form: the addresses are the positions, rising from 0, and no other address exists. -/
abbrev Memory := List Byte

/-- The bound of the message space, `L < 2^64` (R31). -/
def Memory.wf (m : Memory) : Bool :=
  m.length < 2 ^ 64

/-- The state of the block. `none` in a store is the spec's own "no value": R23 gives it as the
value after reset, and R24 as the value once the command that owned the store has ended. -/
structure State where
  /-- `CTX.init[0..8]` (R10). -/
  ctxInit : Vector (Option Word) 9
  /-- `CTX.pool[0..17]` (R10, R12). -/
  ctxPool : Vector (Option Word) 18
  /-- `CTX.fk1[0..10]` (R10, R13). -/
  ctxFk1 : Option (Vector Word 11)
  /-- `CTX.fk2[0..10]` (R10, R13). -/
  ctxFk2 : Option (Vector Word 11)
  /-- The flag `CTX_VALID`, bit 0 of `STATUS` (R20). -/
  ctxValid : Bool
  /-- The flag `FAULT`, bit 1 of `STATUS` (R20). -/
  fault : Bool
  /-- The command stream `IN`: what the host has written and the block has not consumed (R22). -/
  inp : List Byte
  /-- The response stream `OUT`: what the block has written and the host has not read (R22). -/
  out : List Byte
  /-- The register `X[0..8]`, by role (R14, R15). -/
  x : Option (Vector Word 9)
  /-- The accumulator `T0` (R16). -/
  t0 : Option Word
  /-- The working key schedule `Ki[0..10]` (R17). -/
  ki : Option (Vector Word 11)
  /-- The operand latch `KEY` (R18). -/
  key : Option Word
  /-- The operand latch `NONCE` (R18). -/
  nonce : Option Word
  /-- The operand latch `L` (R18). -/
  len : Option (BitVec 64)
  /-- The operand latch `msg[0..L-1]`, the message space (R18, R31). -/
  msg : Option Memory
  /-- `PHASE`, the sequencer's next micro-operation (R19). -/
  phase : Phase
  /-- `t`, the absorption round index (R19). -/
  t : Option Nat
  /-- `c`, the derivation counter (R19). -/
  c : Option Nat
  /-- `i`, the fold index (R19). -/
  i : Option Nat
  /-- The tap history (R21): the last ten message words, the newest first. -/
  hist : Option (Vector Word 10)
  deriving DecidableEq, Repr

/-- The block after reset (R23, R180): the flags 0, `PHASE` IDLE, the streams empty, every other
store without value. -/
def State.reset : State where
  ctxInit := Vector.replicate 9 none
  ctxPool := Vector.replicate 18 none
  ctxFk1 := none
  ctxFk2 := none
  ctxValid := false
  fault := false
  inp := []
  out := []
  x := none
  t0 := none
  ki := none
  key := none
  nonce := none
  len := none
  msg := none
  phase := .idle
  t := none
  c := none
  i := none
  hist := none

end Sys2Proof.Machine
end

