-- ==== Sys2Proof/Machine/Flags.lean ====
section
/-! DEFINITION. The two status flags and the status bytes of the responses (spec/10_state.md R20,
spec/30_encoding.md R54, spec/60_exceptions.md R160). No operation of the block computes a condition
code. -/

namespace Sys2Proof.Machine

/-- The events a step can raise (R160). -/
inductive Event
  /-- ERR_SHORT_MESSAGE (R161). -/
  | shortMessage
  /-- ERR_NO_CONTEXT (R162). -/
  | noContext
  /-- FAULT_ILLEGAL_COMMAND (R163). -/
  | illegalCommand
  deriving DecidableEq, Repr

/-- The status byte OK (R54). -/
def statusOk : Byte :=
  0x00

/-- The one-byte code of an event (R160). -/
def eventCode : Event → Byte
  | .shortMessage => 0x01
  | .noContext => 0x02
  | .illegalCommand => 0xFF

/-- `CTX_VALID <- 1` (R20, R105). -/
def State.setCtxValid (s : State) : State :=
  { s with ctxValid := true }

/-- `FAULT <- 1` (R20, R163). -/
def State.setFault (s : State) : State :=
  { s with fault := true }

/-- The 8-bit label `STATUS` over the flags (R20): bit 0 `CTX_VALID`, bit 1 `FAULT`, bits 7:2
reserved, which nothing writes and which are 0 after reset. -/
def State.statusByte (s : State) : Byte :=
  BitVec.ofNat 8 ((if s.ctxValid then 1 else 0) + (if s.fault then 2 else 0))

/-- The checks of MAC.CHECK in their order: the Context first, then the length, on the unsigned
`L` (R143, R165). -/
def macCheckEvent (ctxValid : Bool) (len : BitVec 64) : Option Event :=
  if ctxValid = false then some .noContext
  else if len.toNat < Config.minLen then some .shortMessage
  else none

end Sys2Proof.Machine
end

