-- ==== Sys2Proof/Machine/Ops.lean ====
section
/-! DEFINITION. The named operations over the state: the streams, the stores, the sequencer, raising an
event, and the end of a command. -/

namespace Sys2Proof.Machine

/-! ## Streams (R22) -/

/-- `emit(bytes)`: append to `OUT`. -/
def State.emit (s : State) (bytes : List Byte) : State :=
  { s with out := s.out ++ bytes }

/-- Remove `n` bytes from the head of `IN`. -/
def State.consume (s : State) (n : Nat) : State :=
  { s with inp := s.inp.drop n }

/-! ## Stores -/

/-- `CTX.init[c] <- w`; a word that does not exist is not written (log entry 4). -/
def State.writeInit (s : State) (c : Nat) (w : Word) : State :=
  { s with ctxInit := s.ctxInit.setIfInBounds c (some w) }

/-- `CTX.pool[c - 9] <- w`; a word that does not exist is not written (log entry 4). -/
def State.writePool (s : State) (c : Nat) (w : Word) : State :=
  { s with ctxPool := if 9 ≤ c then s.ctxPool.setIfInBounds (c - 9) (some w) else s.ctxPool }

/-- `CTX.fk1[0..10] <- sched`. -/
def State.writeFk1 (s : State) (sched : Vector Word 11) : State :=
  { s with ctxFk1 := some sched }

/-- `CTX.fk2[0..10] <- sched`. -/
def State.writeFk2 (s : State) (sched : Vector Word 11) : State :=
  { s with ctxFk2 := some sched }

/-- `X[0..8] <- r`: the nine writes happen together. -/
def State.writeX (s : State) (r : Vector Word 9) : State :=
  { s with x := some r }

/-- `T0 <- w`. -/
def State.writeT0 (s : State) (w : Word) : State :=
  { s with t0 := some w }

/-- `Ki[0..10] <- sched`. -/
def State.writeKi (s : State) (sched : Vector Word 11) : State :=
  { s with ki := some sched }

/-- The tap history takes a value (R21). -/
def State.writeHist (s : State) (h : Vector Word 10) : State :=
  { s with hist := some h }

/-! ## Sequencer (R19) -/

/-- `PHASE <- p`. -/
def State.setPhase (s : State) (p : Phase) : State :=
  { s with phase := p }

/-- `t <- n`. -/
def State.setT (s : State) (n : Nat) : State :=
  { s with t := some n }

/-- `c <- n`. -/
def State.setC (s : State) (n : Nat) : State :=
  { s with c := some n }

/-- `i <- n`. -/
def State.setI (s : State) (n : Nat) : State :=
  { s with i := some n }

/-! ## Operand latches (R18) -/

/-- The operand of DERIVE is latched. -/
def State.latchKey (s : State) (key : Word) : State :=
  { s with key := some key }

/-- The operands of MAC are latched. -/
def State.latchMac (s : State) (nonce : Word) (len : BitVec 64) (msg : Memory) : State :=
  { s with nonce := some nonce, len := some len, msg := some msg }

/-- The latches of a MAC hold no value any more (R18, R24). -/
def State.dropMacLatches (s : State) : State :=
  { s with nonce := none, len := none, msg := none }

/-! ## The end of a command (R24) -/

/-- The end of a DERIVE: `Ki`, `KEY` and the counter hold no value; the block waits (R105). -/
def State.endDerive (s : State) : State :=
  { s with ki := none, key := none, c := none, phase := .idle }

/-- The end of a MAC that ran: `X`, `T0`, the latches, the tap history and the counters hold no
value; the block waits (R133, R142). -/
def State.endMac (s : State) : State :=
  { s with
    x := none, t0 := none, nonce := none, len := none, msg := none, hist := none,
    t := none, i := none, phase := .idle }

/-! ## Events (R160 to R167)

No handler runs and nothing is saved, so there is no return from an event: an error leaves the block
in IDLE at once, and the fault is left by reset alone (R167). -/

/-- Raising an event (R166, R163): its code is appended to `OUT`. An error ends the MAC in flight,
whose latches then hold no value, and the block is back in IDLE; the fault sets `FAULT` and halts
the block. -/
def State.raise (s : State) : Event → State
  | .shortMessage => ((s.emit [eventCode .shortMessage]).dropMacLatches).setPhase .idle
  | .noContext => ((s.emit [eventCode .noContext]).dropMacLatches).setPhase .idle
  | .illegalCommand => ((s.emit [eventCode .illegalCommand]).setFault).setPhase .faultHalt

/-! ## Accepting a command (R140) -/

/-- DERIVE accepted: the key latched, 17 bytes removed, CTX.KS next. -/
def State.acceptDerive (s : State) (key : Word) : State :=
  ((s.latchKey key).consume 17).setPhase .ctxKs

/-- MAC accepted: the operands latched, `25 + L` bytes removed, MAC.CHECK next. -/
def State.acceptMac (s : State) (nonce : Word) (len : BitVec 64) (msg : Memory) : State :=
  ((s.latchMac nonce len msg).consume (25 + len.toNat)).setPhase .macCheck

/-- An illegal opcode: that one byte removed and the fault raised (R163). -/
def State.acceptIllegal (s : State) : State :=
  (s.consume 1).raise .illegalCommand

/-- What command acceptance does with the head of `IN`. While `FAULT` is 1 the block accepts no
command (R20); an empty stream or an incomplete packet changes nothing (R53, R140). -/
def State.acceptCommand (s : State) : State :=
  if s.fault then s
  else
    match decodePacket s.inp with
    | .ok (.derive key, _) => s.acceptDerive key
    | .ok (.mac nonce len msg, _) => s.acceptMac nonce len msg
    | .ok (.illegal _, _) => s.acceptIllegal
    | .ok (_, _) => s
    | .error _ => s

/-! ## The instruction a step runs -/

/-- The row the block runs next: in IDLE the command at the head of `IN`, or IDLE itself while no
whole packet is there (R140, R53); in every other phase the phase's own row (R144). -/
def State.fetch (s : State) : Instr :=
  match s.phase with
  | .idle =>
    match decodePacket s.inp with
    | .ok (i, _) => i
    | .error _ => .idle
  | p => phaseInstr p

end Sys2Proof.Machine
end

