-- ==== Sys2Proof/Machine/Operands.lean ====
section
/-! DEFINITION. The operands the micro-operations read: the stores, the counters, the padded message
(spec/20_memory.md R31 to R37), and the pool window (spec/44_finalizer.md R130). -/

namespace Sys2Proof.Machine

/-! ## Reads of the stores

R24: no rule reads a store that holds no value. A read of one gives a free value (log entry 2). -/

/-- `CTX.init[c]`. -/
def State.readInit (s : State) (c : Nat) : Word :=
  (s.ctxInit[c]?.getD none).getD (Config.absentWord .init c)

/-- `CTX.pool[k]`. -/
def State.readPool (s : State) (k : Nat) : Word :=
  (s.ctxPool[k]?.getD none).getD (Config.absentWord .pool k)

/-- `CTX.fk1[0..10]`. -/
def State.readFk1 (s : State) : Vector Word 11 :=
  s.ctxFk1.getD (Vector.ofFn fun r => Config.absentWord .fk1 r)

/-- `CTX.fk2[0..10]`. -/
def State.readFk2 (s : State) : Vector Word 11 :=
  s.ctxFk2.getD (Vector.ofFn fun r => Config.absentWord .fk2 r)

/-- `X[0..8]`. -/
def State.readX (s : State) : Vector Word 9 :=
  s.x.getD (Vector.ofFn fun j => Config.absentWord .x j)

/-- `X[j]`. -/
def State.readRole (s : State) (j : Nat) : Word :=
  s.readX[j]?.getD (Config.absentWord .x j)

/-- `T0`. -/
def State.readT0 (s : State) : Word :=
  s.t0.getD (Config.absentWord .t0 0)

/-- `Ki[0..10]`. -/
def State.readKi (s : State) : Vector Word 11 :=
  s.ki.getD (Vector.ofFn fun r => Config.absentWord .ki r)

/-- `KEY`. -/
def State.readKey (s : State) : Word :=
  s.key.getD (Config.absentWord .key 0)

/-- `NONCE`. -/
def State.readNonce (s : State) : Word :=
  s.nonce.getD (Config.absentWord .nonce 0)

/-- `L`. -/
def State.readLen (s : State) : BitVec 64 :=
  s.len.getD Config.absentLen

/-- The message space. -/
def State.readMsg (s : State) : Memory :=
  s.msg.getD Config.absentMsg

/-- The tap history. -/
def State.readHist (s : State) : Vector Word 10 :=
  s.hist.getD (Vector.ofFn fun k => Config.absentWord .hist k)

/-- `t`. -/
def State.readT (s : State) : Nat :=
  s.t.getD (Config.absentCount .t)

/-- `c`. -/
def State.readC (s : State) : Nat :=
  s.c.getD (Config.absentCount .c)

/-- `i`. -/
def State.readI (s : State) : Nat :=
  s.i.getD (Config.absentCount .i)

/-! ## The message space -/

/-- `MemRead(addr, n)` (00_scope.md section 6, R31): defined only for `addr + n <= L`. It changes
nothing (R39). -/
def memRead (m : Memory) (addr n : Nat) : Option (List Byte) :=
  if addr + n ≤ m.length then some ((m.drop addr).take n) else none

/-- `nfull = floor(L / 64)`, which is also `P`, the index of the padding block (R35). -/
def nfull (len : Nat) : Nat :=
  len / 64

/-- `rem = L mod 64` (R35). -/
def remBytes (len : Nat) : Nat :=
  len % 64

/-- The padded message `PM = msg || 0x01 || 0x00^(63 - rem)` (R36). -/
def paddedMessage (m : Memory) : List Byte :=
  m ++ Config.padByte :: List.replicate (63 - remBytes m.length) 0x00

/-- `MW(i)`: word `i` of the padded message, `ZERO` where there is none (R37). -/
def mw (m : Memory) (i : Int) : Word :=
  if 0 ≤ i ∧ i < 4 * ((nfull m.length : Int) + 1) then
    wordOfBytes (((paddedMessage m).drop (16 * i.toNat)).take 16)
  else zeroWord

/-- `MW(i)` of the message latched. -/
def State.mw (s : State) (i : Int) : Word :=
  Sys2Proof.Machine.mw s.readMsg i

/-- `P` of the command in flight (R35), from the latch `L`. -/
def State.padIndex (s : State) : Nat :=
  nfull s.readLen.toNat

/-! ## The pool windows -/

/-- `window(i)`: the ten words `CTX.pool[i .. i+9]`, in that order (R130, R12). -/
def State.window (s : State) (i : Nat) : Vector Word 10 :=
  Vector.ofFn fun r => s.readPool (i + r)

end Sys2Proof.Machine
end

