-- ==== Sys2Proof/Machine/Absorption.lean ====
section
/-! DEFINITION. The absorption engine (spec/43_absorption.md): one round, the tap history, and the nine
micro-operations, each with its own block and tap. What each does next is spec/45_commands.md R144. -/

namespace Sys2Proof.Machine

open Host (Outcome)

/-- The block word a `KEYSEL` entry names (R111). -/
def selectKey (k : KeyWord) (m0 m1 m3 : Word) : Word :=
  match k with
  | .m0 => m0
  | .m1 => m1
  | .m3 => m3

/-- What the feedback word holds before `m2` and the tap are XORed in: the words of the roles
`FB_BASE` (R110). -/
def feedbackBase (p : Params) (x : Vector Word 9) : Word :=
  p.fbBase.foldl (fun acc j => acc ^^^ x[j]) zeroWord

/-- `AURound` (R110): the word of role `j - 1` takes an AES round into role `j`; the feedback word
enters role 0. Every right-hand side reads the old register. -/
def auRound (p : Params) (x : Vector Word 9) (m0 m1 m2 m3 tap : Word) : Vector Word 9 :=
  #v[feedbackBase p x ^^^ m2 ^^^ tap,
     aesRound x[0] (selectKey p.keySel[0] m0 m1 m3),
     aesRound x[1] (selectKey p.keySel[1] m0 m1 m3),
     aesRound x[2] (selectKey p.keySel[2] m0 m1 m3),
     aesRound x[3] (selectKey p.keySel[3] m0 m1 m3),
     aesRound x[4] (selectKey p.keySel[4] m0 m1 m3),
     aesRound x[5] (selectKey p.keySel[5] m0 m1 m3),
     aesRound x[6] (selectKey p.keySel[6] m0 m1 m3),
     aesRound x[7] (selectKey p.keySel[7] m0 m1 m3)]

/-- The tap history after a round on the block `m0..m3`: the last ten message words, the newest
first, shifted by four (R21). -/
def shiftHist (h : Vector Word 10) (m0 m1 m2 m3 : Word) : Vector Word 10 :=
  #v[m3, m2, m1, m0, h[0], h[1], h[2], h[3], h[4], h[5]]

/-- The tap value an implementation that keeps a history takes from it: the words 3, 6, 7 and 10
places back from `m0` of the current block (R21, R112). -/
def historyTap (h : Vector Word 10) : Word :=
  h[2] ^^^ h[5] ^^^ h[6] ^^^ h[9]

/-- One absorption round on the state: `X <- AURound(X, m0, m1, m2, m3, tap)`, and the tap history
takes the block in. -/
def State.absorbRound (s : State) (m0 m1 m2 m3 tap : Word) : State :=
  (s.writeX (auRound Config.params s.readX m0 m1 m2 m3 tap)).writeHist
    (shiftHist s.readHist m0 m1 m2 m3)

/-- AU.LOAD (R121): the register from `CTX.init`, `init[j]` to role `j`; the tap history all zero
(R21). -/
def execAuLoad (s : State) : Outcome State Fault Refusal :=
  .next ((((s.writeX (Vector.ofFn fun j => s.readInit j)).writeHist
    (Vector.replicate 10 zeroWord)).setT 0).setPhase .auWarmup1)

/-- AU.WARMUP1 (R113): round 0, tap zero. -/
def execAuWarmup1 (s : State) : Outcome State Fault Refusal :=
  .next (((s.absorbRound (s.mw 0) (s.mw 1) (s.mw 2) (s.mw 3) zeroWord).setT 1).setPhase .auWarmup2)

/-- AU.WARMUP2 (R114): round 1, one tap term. -/
def execAuWarmup2 (s : State) : Outcome State Fault Refusal :=
  .next (((s.absorbRound (s.mw 4) (s.mw 5) (s.mw 6) (s.mw 7) (s.mw 1)).setT 2).setPhase .auWarmup3)

/-- AU.WARMUP3 (R115): round 2, three tap terms. -/
def execAuWarmup3 (s : State) : Outcome State Fault Refusal :=
  .next (((s.absorbRound (s.mw 8) (s.mw 9) (s.mw 10) (s.mw 11)
    (s.mw 5 ^^^ s.mw 2 ^^^ s.mw 1)).setT 3).setPhase
      (if s.padIndex > 3 then .auSteady else .auPad))

/-- The full four-term tap of the round whose block begins at word `w` (R112, R116). -/
def State.fullTap (s : State) (w : Int) : Word :=
  s.mw (w - 3) ^^^ s.mw (w - 6) ^^^ s.mw (w - 7) ^^^ s.mw (w - 10)

/-- AU.STEADY (R112): round `t`, four tap terms. -/
def execAuSteady (s : State) : Outcome State Fault Refusal :=
  .next (((s.absorbRound (s.mw (4 * s.readT)) (s.mw (4 * s.readT + 1)) (s.mw (4 * s.readT + 2))
    (s.mw (4 * s.readT + 3)) (s.fullTap (4 * s.readT))).setT (s.readT + 1)).setPhase
      (if s.readT + 1 < s.padIndex then .auSteady else .auPad))

/-- AU.PAD (R116): the padding block, four tap terms. -/
def execAuPad (s : State) : Outcome State Fault Refusal :=
  .next (((s.absorbRound (s.mw (4 * s.padIndex)) (s.mw (4 * s.padIndex + 1))
    (s.mw (4 * s.padIndex + 2)) (s.mw (4 * s.padIndex + 3)) (s.fullTap (4 * s.padIndex))).setT
      (s.readT + 1)).setPhase .auDrain1)

/-- AU.DRAIN1 (R117): a zero block, four tap terms. -/
def execAuDrain1 (s : State) : Outcome State Fault Refusal :=
  .next (((s.absorbRound zeroWord zeroWord zeroWord zeroWord
    (s.mw (4 * s.padIndex + 1) ^^^ s.mw (4 * s.padIndex - 2) ^^^ s.mw (4 * s.padIndex - 3) ^^^
      s.mw (4 * s.padIndex - 6))).setT (s.readT + 1)).setPhase .auDrain2)

/-- AU.DRAIN2 (R118): a zero block, three tap terms. -/
def execAuDrain2 (s : State) : Outcome State Fault Refusal :=
  .next (((s.absorbRound zeroWord zeroWord zeroWord zeroWord
    (s.mw (4 * s.padIndex + 2) ^^^ s.mw (4 * s.padIndex + 1) ^^^
      s.mw (4 * s.padIndex - 2))).setT (s.readT + 1)).setPhase .auDrain3)

/-- AU.DRAIN3 (R119): a zero block, one tap term; the register is then the digest (R123). -/
def execAuDrain3 (s : State) : Outcome State Fault Refusal :=
  .next ((s.absorbRound zeroWord zeroWord zeroWord zeroWord
    (s.mw (4 * s.padIndex + 2))).setPhase .finNonce)

end Sys2Proof.Machine
end

