-- ==== Sys2Proof/Machine/Commands.lean ====
section
/-! DEFINITION. Command acceptance, the length and Context checks, and the halt
(spec/45_commands.md R140 to R143, spec/60_exceptions.md R163). -/

namespace Sys2Proof.Machine

open Host (Outcome)

/-- DERIVE (R141), accepted from `IN` as R140 says; the chain of R144 that starts at CTX.KS then
makes the Context. While `FAULT` is 1 no command is accepted (R20). -/
def execDerive (key : Word) (s : State) : Outcome State Fault Refusal :=
  .next (if s.fault then s else s.acceptDerive key)

/-- MAC (R142), accepted from `IN` as R140 says; the chain of R144 that starts at MAC.CHECK then
answers it. While `FAULT` is 1 no command is accepted (R20). -/
def execMac (nonce : Word) (len : BitVec 64) (msg : List Byte) (s : State) :
    Outcome State Fault Refusal :=
  .next (if s.fault then s else s.acceptMac nonce len msg)

/-- The row "(illegal)" (R163): the byte is removed, `0xFF` answered, `FAULT` set, the block halts.
The opcode's value plays no part. While `FAULT` is 1 the block does nothing (R20). -/
def execIllegal (_opcode : Byte) (s : State) : Outcome State Fault Refusal :=
  .next (if s.fault then s else s.acceptIllegal)

/-- IDLE (R140): the four things the block does with the head of `IN`. -/
def execIdle (s : State) : Outcome State Fault Refusal :=
  .next s.acceptCommand

/-- MAC.CHECK (R143): the Context, then the length; a MAC that fails answers its error and ends. -/
def execMacCheck (s : State) : Outcome State Fault Refusal :=
  .next (match macCheckEvent s.ctxValid s.readLen with
    | some e => s.raise e
    | none => s.setPhase .auLoad)

/-- FAULT_HALT (R163): nothing, until reset. -/
def execFaultHalt (s : State) : Outcome State Fault Refusal :=
  .next s

end Sys2Proof.Machine
end

