-- ==== Sys2Proof/Machine/KeySchedule.lean ====
section
/-! DEFINITION. The key schedule expander, pure functions (spec/41_key_schedule.md). -/

namespace Sys2Proof.Machine

/-- A key-schedule word, 4 bytes, byte `a0` the most significant (R90). -/
abbrev KeyWord32 := BitVec 32

/-- The word `W[q]` of a round key: its bytes `4q .. 4q+3` (R92). -/
def keyWord (k : Word) (q : Nat) : KeyWord32 :=
  k.extractLsb' (32 * (3 - q)) 32

/-- `RotWord` (R90): a rotation by one byte toward index 0. -/
def rotWord (a : KeyWord32) : KeyWord32 :=
  a.rotateLeft 8

/-- `SubWord` (R90): the substitution on each of the four bytes. -/
def subWord (a : KeyWord32) : KeyWord32 :=
  sbox (a.extractLsb' 24 8) ++ sbox (a.extractLsb' 16 8) ++ sbox (a.extractLsb' 8 8) ++
    sbox (a.extractLsb' 0 8)

/-- `RC[r + 1]` (R91). -/
def roundConstant : Nat → Byte
  | 0 => 0x01
  | r + 1 => xtime (roundConstant r)

/-- The round constant of round `r`, `r` = 1..10, as a word: only byte 0 is nonzero (R91). -/
def rcon (r : Nat) : KeyWord32 :=
  roundConstant (r - 1) ++ (0 : BitVec 24)

/-- Round key `r` from round key `r - 1` (R92). -/
def nextRoundKey (r : Nat) (prev : Word) : Word :=
  let w0 := keyWord prev 0 ^^^ subWord (rotWord (keyWord prev 3)) ^^^ rcon r
  let w1 := w0 ^^^ keyWord prev 1
  let w2 := w1 ^^^ keyWord prev 2
  let w3 := w2 ^^^ keyWord prev 3
  w0 ++ w1 ++ w2 ++ w3

/-- `rk[r]` of the schedule of a key (R92). -/
def roundKey (key : Word) : Nat → Word
  | 0 => key
  | r + 1 => nextRoundKey (r + 1) (roundKey key r)

/-- `expand` (R92). -/
def expand (key : Word) : Vector Word 11 :=
  Vector.ofFn fun r => roundKey key r

end Sys2Proof.Machine
end

