-- ==== Sys2Proof/Machine/Derivation.lean ====
section
/-! DEFINITION. The context-derivation expander (spec/42_context_derivation.md): the counter block and
the five micro-operations of DERIVE. What each does next is spec/45_commands.md R144. -/

namespace Sys2Proof.Machine

open Host (Outcome)

/-- `counter_block(c)` (R100): the integer `c` as 16 bytes, in the byte order `CTR_ORDER`. -/
def counterBlock (p : Params) (c : Nat) : Word :=
  match p.ctrOrder with
  | .little => wordOfBytes (leBytes 16 c)
  | .big => wordOfBytes (leBytes 16 c).reverse

/-- The encryption of counter `c` under the working schedule, which every word of the Context is
made from (R102 to R105). -/
def derivedWord (ki : Vector Word 11) (c : Nat) : Word :=
  encrypt ki (counterBlock Config.params c)

/-- CTX.KS (R101): expand the key into the working schedule. -/
def execCtxKs (s : State) : Outcome State Fault Refusal :=
  .next (((s.writeKi (expand s.readKey)).setC 0).setPhase .ctxInit)

/-- CTX.INIT (R102): one initial register word. -/
def execCtxInit (s : State) : Outcome State Fault Refusal :=
  .next (((s.writeInit s.readC (derivedWord s.readKi s.readC)).setC (s.readC + 1)).setPhase
    (if s.readC + 1 ≤ 8 then .ctxInit else .ctxPool))

/-- CTX.POOL (R103): one pool word. -/
def execCtxPool (s : State) : Outcome State Fault Refusal :=
  .next (((s.writePool s.readC (derivedWord s.readKi s.readC)).setC (s.readC + 1)).setPhase
    (if s.readC + 1 ≤ 26 then .ctxPool else .ctxFk1))

/-- CTX.FK1 (R104): the first finalization key schedule. -/
def execCtxFk1 (s : State) : Outcome State Fault Refusal :=
  .next (((s.writeFk1 (expand (derivedWord s.readKi Config.ctrFk1))).setC 28).setPhase .ctxFk2)

/-- CTX.FK2 (R105): the second finalization key schedule, then the flag, the answer OK and the end
of the command. -/
def execCtxFk2 (s : State) : Outcome State Fault Refusal :=
  .next ((((s.writeFk2 (expand (derivedWord s.readKi Config.ctrFk2))).setCtxValid).emit
    [statusOk]).endDerive)

end Sys2Proof.Machine
end

