-- ==== Sys2Proof/Machine/Finalizer.lean ====
section
/-! DEFINITION. The tag finalizer (spec/44_finalizer.md): its three micro-operations. What each does next
is spec/45_commands.md R144. -/

namespace Sys2Proof.Machine

open Host (Outcome)

/-- FIN.NONCE (R131). -/
def execFinNonce (s : State) : Outcome State Fault Refusal :=
  .next (((s.writeT0 (s.readNonce ^^^ encrypt s.readFk1 s.readNonce)).setI 0).setPhase .finFold)

/-- FIN.FOLD (R132): digest word `i` under window `i`, folded into the accumulator. -/
def execFinFold (s : State) : Outcome State Fault Refusal :=
  .next (((s.writeT0 (s.readT0 ^^^
    permuteTruncated (s.window s.readI) (s.readRole s.readI))).setI (s.readI + 1)).setPhase
      (if s.readI + 1 ≤ 8 then .finFold else .finTag))

/-- FIN.TAG (R133): the tag, the 17-byte answer and the end of the command. -/
def execFinTag (s : State) : Outcome State Fault Refusal :=
  .next ((s.emit (statusOk :: wordBytes (encrypt s.readFk2 s.readT0))).endMac)

end Sys2Proof.Machine
end

