-- ==== Sys2Proof/Machine/Dispatch.lean ====
section
/-! DEFINITION. `exec`: the meaning of each row of spec/opcode_table.json, one arm per constructor. -/

namespace Sys2Proof.Machine

def exec (i : Instr) (s : State) : Host.Outcome State Fault Refusal :=
  match i with
  | .derive key => Sys2Proof.Machine.execDerive key s
  | .mac nonce len msg => Sys2Proof.Machine.execMac nonce len msg s
  | .illegal opcode => Sys2Proof.Machine.execIllegal opcode s
  | .idle => Sys2Proof.Machine.execIdle s
  | .ctxKs => Sys2Proof.Machine.execCtxKs s
  | .ctxInit => Sys2Proof.Machine.execCtxInit s
  | .ctxPool => Sys2Proof.Machine.execCtxPool s
  | .ctxFk1 => Sys2Proof.Machine.execCtxFk1 s
  | .ctxFk2 => Sys2Proof.Machine.execCtxFk2 s
  | .macCheck => Sys2Proof.Machine.execMacCheck s
  | .auLoad => Sys2Proof.Machine.execAuLoad s
  | .auWarmup1 => Sys2Proof.Machine.execAuWarmup1 s
  | .auWarmup2 => Sys2Proof.Machine.execAuWarmup2 s
  | .auWarmup3 => Sys2Proof.Machine.execAuWarmup3 s
  | .auSteady => Sys2Proof.Machine.execAuSteady s
  | .auPad => Sys2Proof.Machine.execAuPad s
  | .auDrain1 => Sys2Proof.Machine.execAuDrain1 s
  | .auDrain2 => Sys2Proof.Machine.execAuDrain2 s
  | .auDrain3 => Sys2Proof.Machine.execAuDrain3 s
  | .finNonce => Sys2Proof.Machine.execFinNonce s
  | .finFold => Sys2Proof.Machine.execFinFold s
  | .finTag => Sys2Proof.Machine.execFinTag s
  | .faultHalt => Sys2Proof.Machine.execFaultHalt s

end Sys2Proof.Machine
end

