-- ==== Sys2Proof/Machine/Step.lean ====
section
/-! DEFINITION. One step of the sequencer, and where a word of the opcode table is put so that the next
step runs it. -/

namespace Sys2Proof.Machine

/-- One step: the row that the phase and the head of `IN` select, run on the state (R140, R144). -/
def step (s : State) : Host.Outcome State Fault Refusal :=
  exec s.fetch s

/-- The state whose next step runs the instruction of a table word: a packet stands at the head of
`IN` and the block is in IDLE; a code of `PHASE` is the value of `PHASE`, and for IDLE, which runs
while no whole packet is there, `IN` is empty. An unused code changes nothing. -/
def State.withFetchWord (s : State) (nbits w : Nat) : State :=
  match tableCode nbits w with
  | .packet bytes => { s with phase := .idle, inp := bytes }
  | .phase code =>
    match phaseOfCode code with
    | some .idle => { s with phase := .idle, inp := [] }
    | some p => { s with phase := p }
    | none => s

end Sys2Proof.Machine
end

