-- ==== Sys2Proof/Machine/HostPort.lean ====
section
/-! DEFINITION. What the host can do to the block (spec/10_state.md R22, spec/70_reset_and_hazards.md R180,
R187): write `IN`, take bytes of `OUT`, drive reset. These are inputs, between steps; no step does
them. -/

namespace Sys2Proof.Machine

/-- The host appends bytes to `IN` (R22). -/
def State.hostSend (s : State) (bytes : List Byte) : State :=
  { s with inp := s.inp ++ bytes }

/-- The host takes the first `n` bytes of `OUT` (R22): the bytes, and the state without them. -/
def State.hostTake (s : State) (n : Nat) : List Byte × State :=
  (s.out.take n, { s with out := s.out.drop n })

/-- The reset input (R180): whatever the block is doing, the state after is the reset state. -/
def State.hostReset (_s : State) : State :=
  State.reset

end Sys2Proof.Machine
end

