-- ==== Sys2Proof/Machine/Text.lean ====
section
/-! DEFINITION. The textual form of a command stream (spec/30_encoding.md R58, R59): message expressions,
lines, pseudo-commands, and the reading of a line of text. -/

namespace Sys2Proof.Machine

/-- A message expression (R58). -/
inductive MsgExpr
  /-- A string of hexadecimal digit pairs. -/
  | hex (bytes : List Byte)
  /-- `rep(hh, n)`. -/
  | rep (b : Byte) (n : Nat)
  /-- `seq(n)`. -/
  | seq (n : Nat)
  /-- `pat(hex, n)`. -/
  | pat (bytes : List Byte) (n : Nat)
  /-- `x || y`. -/
  | cat (x y : MsgExpr)
  deriving DecidableEq, Repr

/-- The bytes a message expression stands for (R58). The pattern of no bytes stands for none. -/
def msgBytes : MsgExpr → List Byte
  | .hex bytes => bytes
  | .rep b n => List.replicate n b
  | .seq n => (List.range n).map fun a => BitVec.ofNat 8 (a % 256)
  | .pat bytes n => ((List.replicate n bytes).flatten).take n
  | .cat x y => msgBytes x ++ msgBytes y

/-- A line of the textual form (R58), the pseudo-commands among them (R59). -/
inductive Line
  | derive (key : Word)
  | mac (nonce : Word) (msg : MsgExpr)
  /-- `RESET`, the reset input; not a packet. -/
  | reset
  /-- `RAW`, bytes put on `IN` as they are. -/
  | raw (bytes : List Byte)
  /-- `derive_context`, another spelling of DERIVE. -/
  | deriveContext (key : Word)
  /-- `compute_tag`, another spelling of MAC. -/
  | computeTag (nonce : Word) (msg : MsgExpr)
  /-- `TAG`, the two lines DERIVE and MAC. -/
  | tag (key nonce : Word) (msg : MsgExpr)
  /-- An empty line or a comment. -/
  | blank
  deriving DecidableEq, Repr

/-- The lines a pseudo-command expands to (R59). -/
def expandLine : Line → List Line
  | .deriveContext key => [.derive key]
  | .computeTag nonce msg => [.mac nonce msg]
  | .tag key nonce msg => [.derive key, .mac nonce msg]
  | l => [l]

/-- The MAC packet of a message: the length operand is the message's length (R58). -/
def macOf (nonce : Word) (msg : List Byte) : Instr :=
  .mac nonce (BitVec.ofNat 64 msg.length) msg

/-- The bytes a line puts on `IN` (R51, R52, R58); a pseudo-command those of its lines. -/
def lineBytes : Line → List Byte
  | .derive key | .deriveContext key => encodePacket (.derive key)
  | .mac nonce msg | .computeTag nonce msg => encodePacket (macOf nonce (msgBytes msg))
  | .tag key nonce msg =>
    encodePacket (.derive key) ++ encodePacket (macOf nonce (msgBytes msg))
  | .raw bytes => bytes
  | .reset | .blank => []

/-- The host carries a line out (R58, R180). -/
def State.hostLine (s : State) (l : Line) : State :=
  match l with
  | .reset => s.hostReset
  | l => s.hostSend (lineBytes l)

/-! ## Reading a line of text

Text is read as a list of characters. Words are parted by blanks; text after `#` is comment. -/

/-- A hexadecimal digit. -/
def hexDigit (ch : Char) : Option Nat :=
  if '0' ≤ ch ∧ ch ≤ '9' then some (ch.toNat - 48)
  else if 'a' ≤ ch ∧ ch ≤ 'f' then some (ch.toNat - 87)
  else if 'A' ≤ ch ∧ ch ≤ 'F' then some (ch.toNat - 55)
  else none

/-- Hexadecimal digit pairs. -/
def readHex : List Char → Option (List Byte)
  | [] => some []
  | a :: b :: rest =>
    match hexDigit a, hexDigit b, readHex rest with
    | some x, some y, some bs => some (BitVec.ofNat 8 (16 * x + y) :: bs)
    | _, _, _ => none
  | [_] => none

/-- 32 hexadecimal digits, byte 0 first: a key or a nonce. -/
def readWord (cs : List Char) : Option Word :=
  match readHex cs with
  | some bs => if bs.length = 16 then some (wordOfBytes bs) else none
  | none => none

/-- A decimal count, read from the left with `acc` for the digits before. -/
def readCount : Nat → List Char → Option Nat
  | acc, [] => some acc
  | acc, ch :: rest =>
    if '0' ≤ ch ∧ ch ≤ '9' then readCount (10 * acc + (ch.toNat - 48)) rest else none

/-- A decimal count of at least one digit. -/
def readDecimal : List Char → Option Nat
  | [] => none
  | cs => readCount 0 cs

/-- Parts a text at every occurrence of a character. -/
def splitAtChar (sep : Char) : List Char → List (List Char)
  | [] => [[]]
  | ch :: rest =>
    if ch = sep then [] :: splitAtChar sep rest
    else
      match splitAtChar sep rest with
      | first :: more => (ch :: first) :: more
      | [] => [[ch]]

/-- The text without its blanks: inside a message expression they part nothing. -/
def squeeze (cs : List Char) : List Char :=
  cs.filter fun ch => ch != ' '

/-- The text between `name(` and the closing parenthesis that ends it. -/
def argsOf (name : List Char) (cs : List Char) : Option (List Char) :=
  if (name ++ ['(']).isPrefixOf cs ∧ cs.getLast? = some ')' then
    some ((cs.drop (name.length + 1)).dropLast)
  else none

/-- One term of a message expression, without blanks. -/
def readTerm (cs : List Char) : Option MsgExpr :=
  match argsOf ['r', 'e', 'p'] cs with
  | some args =>
    match splitAtChar ',' args with
    | [hh, n] =>
      match readHex hh, readDecimal n with
      | some [b], some k => some (.rep b k)
      | _, _ => none
    | _ => none
  | none =>
    match argsOf ['s', 'e', 'q'] cs with
    | some args => (readDecimal args).map .seq
    | none =>
      match argsOf ['p', 'a', 't'] cs with
      | some args =>
        match splitAtChar ',' args with
        | [hs, n] =>
          match readHex hs, readDecimal n with
          | some bs, some k => some (.pat bs k)
          | _, _ => none
        | _ => none
      | none => (readHex cs).map .hex

/-- The terms of a message expression, parted by `||`, which parts as two bars with nothing
between. -/
def readTerms : List (List Char) → Option MsgExpr
  | [] => none
  | [last] => readTerm last
  | x :: [] :: rest =>
    match readTerm x, readTerms rest with
    | some a, some b => some (.cat a b)
    | _, _ => none
  | _ :: _ :: _ => none

/-- A message expression; an empty text is the empty message. -/
def readMsg (cs : List Char) : Option MsgExpr :=
  readTerms (splitAtChar '|' (squeeze cs))

/-- Operands parted by their first `n` commas; what follows the last of them is one operand, in
which commas belong to a message expression. A text of fewer commas has none. -/
def operands (cs : List Char) (n : Nat) : List (List Char) :=
  let parts := splitAtChar ',' cs
  if parts.length ≤ n then []
  else (parts.take n).map squeeze ++ [List.intercalate [','] (parts.drop n)]

/-- `<nonce>, <message>`, the operands of MAC. -/
def readMacOperands (cs : List Char) : Option (Word × MsgExpr) :=
  match operands cs 1 with
  | [n, m] =>
    match readWord n, readMsg m with
    | some nonce, some msg => some (nonce, msg)
    | _, _ => none
  | _ => none

/-- `<key>, <nonce>, <message>`, the operands of TAG. -/
def readTagOperands (cs : List Char) : Option (Word × Word × MsgExpr) :=
  match operands cs 2 with
  | [k, n, m] =>
    match readWord k, readWord n, readMsg m with
    | some key, some nonce, some msg => some (key, nonce, msg)
    | _, _, _ => none
  | _ => none

/-- The text up to the comment, without blanks at its head. -/
def lineText (cs : List Char) : List Char :=
  (cs.takeWhile fun ch => ch != '#').dropWhile fun ch => ch == ' '

/-- Reads one line (R58, R59). -/
def readLine (cs : List Char) : Option Line :=
  let text := lineText cs
  let word := text.takeWhile fun ch => ch != ' '
  let rest := text.dropWhile fun ch => ch != ' '
  if word = [] then some .blank
  else if word = ['R', 'E', 'S', 'E', 'T'] then
    if squeeze rest = [] then some .reset else none
  else if word = ['R', 'A', 'W'] then (readHex (squeeze rest)).map .raw
  else if word = ['D', 'E', 'R', 'I', 'V', 'E'] then (readWord (squeeze rest)).map .derive
  else if word = ['M', 'A', 'C'] then
    (readMacOperands rest).map fun p => .mac p.1 p.2
  else if word = ['T', 'A', 'G'] then
    (readTagOperands rest).map fun p => .tag p.1 p.2.1 p.2.2
  else if word = ['d', 'e', 'r', 'i', 'v', 'e', '_', 'c', 'o', 'n', 't', 'e', 'x', 't'] then
    (readWord (squeeze rest)).map .deriveContext
  else if word = ['c', 'o', 'm', 'p', 'u', 't', 'e', '_', 't', 'a', 'g'] then
    (readMacOperands rest).map fun p => .computeTag p.1 p.2
  else none

end Sys2Proof.Machine
end

