-- ==== Sys2Proof/Machine/Contract.lean ====
section
/-! DEFINITION. The functions the block computes, as the spec composes them: `derive_context`
(spec/42_context_derivation.md R106), `absorb` and `compute_tag` (spec/43_absorption.md R120 to R123,
spec/44_finalizer.md R134), and a command taken as one step (spec/45_commands.md R145). The machine does not
call them: they are what its micro-operations compose to. -/

namespace Sys2Proof.Machine

/-- The Context: the full derived secret state for one key, 49 words (R10). -/
structure Context where
  init : Vector Word 9
  pool : Vector Word 18
  fk1 : Vector Word 11
  fk2 : Vector Word 11
  deriving DecidableEq, Repr

/-- `derive_context` (R106). -/
def deriveContext (key : Word) : Context where
  init := Vector.ofFn fun c => derivedWord (expand key) c
  pool := Vector.ofFn fun k => derivedWord (expand key) (k + 9)
  fk1 := expand (derivedWord (expand key) 27)
  fk2 := expand (derivedWord (expand key) 28)

/-- The one formula of the eight absorption micro-operations: round `t` on the message `m` (R120). -/
def uniformRound (p : Params) (m : Memory) (t : Nat) (x : Vector Word 9) : Vector Word 9 :=
  auRound p x (mw m (4 * t)) (mw m (4 * t + 1)) (mw m (4 * t + 2)) (mw m (4 * t + 3))
    (mw m (4 * t - 3) ^^^ mw m (4 * t - 6) ^^^ mw m (4 * t - 7) ^^^ mw m (4 * t - 10))

/-- The register after rounds `0 .. n-1` of the message `m` (R122). -/
def absorbRounds (p : Params) (init : Vector Word 9) (m : Memory) : Nat → Vector Word 9
  | 0 => init
  | n + 1 => uniformRound p m n (absorbRounds p init m n)

/-- The tap history after rounds `0 .. n-1` of the message `m` (R21). -/
def historyAfter (m : Memory) : Nat → Vector Word 10
  | 0 => Vector.replicate 10 zeroWord
  | n + 1 =>
    shiftHist (historyAfter m n) (mw m (4 * n)) (mw m (4 * n + 1)) (mw m (4 * n + 2))
      (mw m (4 * n + 3))

/-- The digest state: the register after the `nfull + 4` rounds of R122 (R123). -/
def absorb (p : Params) (init : Vector Word 9) (m : Memory) : Vector Word 9 :=
  absorbRounds p init m (nfull m.length + 4)

/-- `window(i)` of a Context (R130). -/
def contextWindow (ctx : Context) (i : Fin 9) : Vector Word 10 :=
  Vector.ofFn fun r => ctx.pool[i.val + r.val]

/-- `T0` after FIN.NONCE and the first `n` folds (R131, R132). -/
def foldedTo (ctx : Context) (digest : Vector Word 9) (nonce : Word) : Nat → Word
  | 0 => nonce ^^^ encrypt ctx.fk1 nonce
  | n + 1 =>
    if h : n < 9 then
      foldedTo ctx digest nonce n ^^^ permuteTruncated (contextWindow ctx ⟨n, h⟩) digest[n]
    else foldedTo ctx digest nonce n

/-- `finalize` (R134). -/
def finalize (ctx : Context) (digest : Vector Word 9) (nonce : Word) : Word :=
  encrypt ctx.fk2 (foldedTo ctx digest nonce 9)

/-- `compute_tag` (R1, R134): the tag, or the length-precondition error. -/
def computeTag (ctx : Context) (nonce : Word) (m : Memory) : Except Event Word :=
  if m.length < Config.minLen then .error .shortMessage
  else .ok (finalize ctx (absorb Config.params ctx.init m) nonce)

/-- The core's whole contract (R1): (key, nonce, message) to tag. -/
def macTag (key nonce : Word) (m : Memory) : Except Event Word :=
  computeTag (deriveContext key) nonce m

/-- The Context in the slot. -/
def State.context (s : State) : Context where
  init := Vector.ofFn fun c => s.readInit c
  pool := Vector.ofFn fun k => s.readPool k
  fk1 := s.readFk1
  fk2 := s.readFk2

/-- `CTX <- ctx`: all 49 words are written (R141). -/
def State.storeContext (s : State) (ctx : Context) : State :=
  { s with
    ctxInit := ctx.init.map some, ctxPool := ctx.pool.map some
    ctxFk1 := some ctx.fk1, ctxFk2 := some ctx.fk2 }

/-- What a command whose packet heads `IN` does, taken as one step (R145): R141 for DERIVE, R142
for MAC, R163 for an illegal opcode. The other rows are no commands. -/
def commandEffect (i : Instr) (s : State) : State :=
  match i with
  | .derive key =>
    ((((s.consume 17).storeContext (deriveContext key)).setCtxValid).emit [statusOk]).endDerive
  | .mac nonce len msg =>
    let s1 := s.consume (25 + len.toNat)
    if s.ctxValid = false then ((s1.emit [0x02]).dropMacLatches).setPhase .idle
    else
      match computeTag s.context nonce msg with
      | .error _ => ((s1.emit [0x01]).dropMacLatches).setPhase .idle
      | .ok tag => (s1.emit (statusOk :: wordBytes tag)).endMac
  | .illegal _ => s.acceptIllegal
  | .idle | .ctxKs | .ctxInit | .ctxPool | .ctxFk1 | .ctxFk2 | .macCheck | .auLoad
  | .auWarmup1 | .auWarmup2 | .auWarmup3 | .auSteady | .auPad | .auDrain1 | .auDrain2 | .auDrain3
  | .finNonce | .finFold | .finTag | .faultHalt => s

/-- The micro-operations a command runs (R186): 30 for DERIVE, `nfull + 17` for a MAC that is
accepted, 1 for one that is rejected, none for an illegal opcode. -/
def microOps (i : Instr) (ctxValid : Bool) : Nat :=
  match i with
  | .derive _ => 30
  | .mac _ len _ =>
    if (macCheckEvent ctxValid len).isSome then 1 else nfull len.toNat + 17
  | .illegal _ => 0
  | .idle | .ctxKs | .ctxInit | .ctxPool | .ctxFk1 | .ctxFk2 | .macCheck | .auLoad
  | .auWarmup1 | .auWarmup2 | .auWarmup3 | .auSteady | .auPad | .auDrain1 | .auDrain2 | .auDrain3
  | .finNonce | .finFold | .finTag | .faultHalt => 0

end Sys2Proof.Machine
end

