-- ==== Sys2Proof/Machine/Work.lean ====
section
/-! DEFINITION. Counts of work (spec/70_reset_and_hazards.md R186): micro-operations, applications of
the AES round functions, and key expansions. Each function of the cipher has a metered form, which
follows its body and gives its value with the work it took; a row costs what the functions it applies
cost, and a run costs what its rows cost. The counts are no state and no timing (log entry 22). -/

namespace Sys2Proof.Machine

/-- The three counts of R186. -/
structure Work where
  microOps : Nat
  aesRounds : Nat
  expansions : Nat
  deriving DecidableEq, Repr

/-- No work. -/
def noWork : Work :=
  ⟨0, 0, 0⟩

/-- The work of two things done. -/
def addWork (a b : Work) : Work :=
  ⟨a.microOps + b.microOps, a.aesRounds + b.aesRounds, a.expansions + b.expansions⟩

/-- A value, and the work it took. -/
structure Metered (α : Type) where
  value : α
  work : Work
  deriving DecidableEq, Repr

/-- The value of one metered function given to another; the work of both. -/
def meteredThen {α β : Type} (m : Metered α) (f : α → Metered β) : Metered β :=
  ⟨(f m.value).value, addWork m.work (f m.value).work⟩

/-! ## The functions of the cipher -/

/-- `AESRound`: one application (R76, R186). -/
def meteredAesRound (x k : Word) : Metered Word :=
  ⟨aesRound x k, ⟨0, 1, 0⟩⟩

/-- `AESFinalRound`: one application, as a full round is (R77, R186). -/
def meteredAesFinalRound (x k : Word) : Metered Word :=
  ⟨aesFinalRound x k, ⟨0, 1, 0⟩⟩

/-- `whitenedRounds`: whitening is no application of a round function. -/
def meteredWhitenedRounds {m : Nat} (w : Vector Word m) (b : Word) : Nat → Metered Word
  | 0 => ⟨addRoundKey b (w[0]?.getD zeroWord), noWork⟩
  | n + 1 =>
    meteredThen (meteredWhitenedRounds w b n) fun x =>
      meteredAesRound x (w[n + 1]?.getD zeroWord)

/-- `encrypt` (R78). -/
def meteredEncrypt (sched : Vector Word 11) (b : Word) : Metered Word :=
  meteredThen (meteredWhitenedRounds sched b 9) fun x => meteredAesFinalRound x sched[10]

/-- `permute_truncated` (R79). -/
def meteredPermuteTruncated (w : Vector Word 10) (b : Word) : Metered Word :=
  meteredThen (meteredWhitenedRounds w b 9) fun x => meteredAesRound x zeroWord

/-- `expand` (R92): one key expansion, which applies no AES round function. -/
def meteredExpand (key : Word) : Metered (Vector Word 11) :=
  ⟨expand key, ⟨0, 0, 1⟩⟩

/-- `AURound` (R110): eight AES rounds, and the feedback word, which takes none. -/
def meteredAuRound (p : Params) (x : Vector Word 9) (m0 m1 m2 m3 tap : Word) :
    Metered (Vector Word 9) :=
  let r : Vector (Metered Word) 8 :=
    Vector.ofFn fun j => meteredAesRound x[j.val] (selectKey p.keySel[j.val] m0 m1 m3)
  ⟨#v[feedbackBase p x ^^^ m2 ^^^ tap, r[0].value, r[1].value, r[2].value, r[3].value, r[4].value,
      r[5].value, r[6].value, r[7].value],
   (r.toList.map Metered.work).foldl addWork noWork⟩

/-! ## Rows and runs -/

/-- The encryption of counter `c` under the working schedule, metered. -/
def State.meteredDerivedWord (s : State) (c : Nat) : Metered Word :=
  meteredEncrypt s.readKi (counterBlock Config.params c)

/-- Round `t` by the one formula of the absorption micro-operations (R120), metered. -/
def State.meteredRound (s : State) : Metered (Vector Word 9) :=
  meteredAuRound Config.params s.readX (s.mw (4 * s.readT)) (s.mw (4 * s.readT + 1))
    (s.mw (4 * s.readT + 2)) (s.mw (4 * s.readT + 3)) (s.fullTap (4 * s.readT))

/-- What the functions that a row applies cost (R101 to R105, R112 to R119, R131 to R133). Accepting
a command, the checks, the load and the halt apply none. -/
def rowFunctionWork (i : Instr) (s : State) : Work :=
  match i with
  | .ctxKs => (meteredExpand s.readKey).work
  | .ctxInit | .ctxPool => (s.meteredDerivedWord s.readC).work
  | .ctxFk1 => (meteredThen (s.meteredDerivedWord Config.ctrFk1) meteredExpand).work
  | .ctxFk2 => (meteredThen (s.meteredDerivedWord Config.ctrFk2) meteredExpand).work
  | .auWarmup1 | .auWarmup2 | .auWarmup3 | .auSteady | .auPad | .auDrain1 | .auDrain2
  | .auDrain3 => s.meteredRound.work
  | .finNonce => (meteredEncrypt s.readFk1 s.readNonce).work
  | .finFold => (meteredPermuteTruncated (s.window s.readI) (s.readRole s.readI)).work
  | .finTag => (meteredEncrypt s.readFk2 s.readT0).work
  | .derive _ | .mac _ _ _ | .illegal _ | .idle | .macCheck | .auLoad | .faultHalt => noWork

/-- Which rows are micro-operations: the eighteen values of `PHASE` that are neither IDLE nor
FAULT_HALT (R19, R56). -/
def isMicroOp : Instr → Bool
  | .derive _ | .mac _ _ _ | .illegal _ | .idle | .faultHalt => false
  | .ctxKs | .ctxInit | .ctxPool | .ctxFk1 | .ctxFk2 | .macCheck | .auLoad | .auWarmup1
  | .auWarmup2 | .auWarmup3 | .auSteady | .auPad | .auDrain1 | .auDrain2 | .auDrain3 | .finNonce
  | .finFold | .finTag => true

/-- The work of one row: itself, if it is a micro-operation, and the functions it applies. -/
def rowWork (i : Instr) (s : State) : Work :=
  addWork ⟨if isMicroOp i then 1 else 0, 0, 0⟩ (rowFunctionWork i s)

/-- The work of the first `n` steps from a state. -/
def workOfRun : Nat → State → Work
  | 0, _ => noWork
  | n + 1, s =>
    match step s with
    | .next t => addWork (rowWork s.fetch s) (workOfRun n t)
    | .fault _ => noWork
    | .refused _ => noWork

/-- The table of R186: the work of a command, from its acceptance to its answer. -/
def commandWork (i : Instr) (ctxValid : Bool) : Work :=
  match i with
  | .derive _ => ⟨microOps i ctxValid, 29 * 10, 3⟩
  | .mac _ len _ =>
    if (macCheckEvent ctxValid len).isSome then ⟨microOps i ctxValid, 0, 0⟩
    else ⟨microOps i ctxValid, 8 * (nfull len.toNat + 4) + 110, 0⟩
  | .illegal _ => ⟨microOps i ctxValid, 0, 0⟩
  | .idle | .ctxKs | .ctxInit | .ctxPool | .ctxFk1 | .ctxFk2 | .macCheck | .auLoad
  | .auWarmup1 | .auWarmup2 | .auWarmup3 | .auSteady | .auPad | .auDrain1 | .auDrain2 | .auDrain3
  | .finNonce | .finFold | .finTag | .faultHalt => noWork

end Sys2Proof.Machine
end

