-- ==== Sys2Proof/Safety.lean ====
section
/-! DEFINITION. What a sound state of the block is: the invariants claims are stated with, and the states
in which the block waits (spec/10_state.md R19, R20, R24, spec/45_commands.md R148). -/

namespace Sys2Proof.Machine

/-! ## Waiting -/

/-- The block can do nothing until the host acts: it is halted, or it is in IDLE and no whole packet
is in `IN` (R53, R148, R163). -/
def State.waiting (s : State) : Bool :=
  s.phase == .faultHalt ||
    (s.phase == .idle && (s.fault || match decodePacket s.inp with
      | .ok _ => false
      | .error _ => true))

/-! ## Which stores hold a value in which phase (R24) -/

/-- The words `CTX.init[0 .. n-1]` hold values. -/
def State.initTo (s : State) (n : Nat) : Bool :=
  (List.range n).all fun j => (s.ctxInit[j]?.getD none).isSome

/-- The words `CTX.pool[0 .. n-1]` hold values. -/
def State.poolTo (s : State) (n : Nat) : Bool :=
  (List.range n).all fun k => (s.ctxPool[k]?.getD none).isSome

/-- All 49 words of the Context hold values. -/
def State.contextWritten (s : State) : Bool :=
  s.initTo 9 && s.poolTo 18 && s.ctxFk1.isSome && s.ctxFk2.isSome

/-- The working stores of a DERIVE hold no value. -/
def State.noDerive (s : State) : Bool :=
  s.key.isNone && s.ki.isNone && s.c.isNone

/-- The operand latches of a MAC hold no value. -/
def State.noMacLatch (s : State) : Bool :=
  s.nonce.isNone && s.len.isNone && s.msg.isNone

/-- The working stores of a MAC hold no value. -/
def State.noMacWork (s : State) : Bool :=
  s.x.isNone && s.t0.isNone && s.hist.isNone && s.t.isNone && s.i.isNone

/-- The latches of a MAC hold values, `L` is the number of message bytes, and no DERIVE runs. -/
def State.macLatched (s : State) : Bool :=
  s.noDerive && s.nonce.isSome && s.len.isSome && s.msg.isSome &&
    s.readMsg.length == s.readLen.toNat

/-- A MAC that passed MAC.CHECK: a Context, and at least 192 message bytes. -/
def State.macAccepted (s : State) : Bool :=
  s.macLatched && s.ctxValid && Nat.ble Config.minLen s.readLen.toNat

/-- In an absorption round: the register and the history hold values, and `t` satisfies the test. -/
def State.absorbing (s : State) (test : Nat → Bool) : Bool :=
  s.macAccepted && s.x.isSome && s.hist.isSome && s.t.isSome && test s.readT && s.t0.isNone &&
    s.i.isNone

/-- The stores and counters that each phase finds (R19, R24, R144). -/
def State.staged (s : State) : Bool :=
  match s.phase with
  | .idle | .faultHalt => s.noDerive && s.noMacLatch && s.noMacWork
  | .ctxKs => s.key.isSome && s.ki.isNone && s.c.isNone && s.noMacLatch && s.noMacWork
  | .ctxInit =>
    s.key.isSome && s.ki.isSome && s.c.isSome && Nat.ble s.readC 8 && s.initTo s.readC &&
      s.noMacLatch && s.noMacWork
  | .ctxPool =>
    s.key.isSome && s.ki.isSome && s.c.isSome && Nat.ble 9 s.readC && Nat.ble s.readC 26 &&
      s.initTo 9 && s.poolTo (s.readC - 9) && s.noMacLatch && s.noMacWork
  | .ctxFk1 =>
    s.key.isSome && s.ki.isSome && s.c == some 27 && s.initTo 9 && s.poolTo 18 && s.noMacLatch &&
      s.noMacWork
  | .ctxFk2 =>
    s.key.isSome && s.ki.isSome && s.c == some 28 && s.initTo 9 && s.poolTo 18 &&
      s.ctxFk1.isSome && s.noMacLatch && s.noMacWork
  | .macCheck => s.macLatched && s.noMacWork
  | .auLoad => s.macAccepted && s.noMacWork
  | .auWarmup1 => s.absorbing (· == 0)
  | .auWarmup2 => s.absorbing (· == 1)
  | .auWarmup3 => s.absorbing (· == 2)
  | .auSteady => s.absorbing fun t => Nat.ble 3 t && Nat.blt t s.padIndex
  | .auPad => s.absorbing (· == s.padIndex)
  | .auDrain1 => s.absorbing (· == s.padIndex + 1)
  | .auDrain2 => s.absorbing (· == s.padIndex + 2)
  | .auDrain3 => s.absorbing (· == s.padIndex + 3)
  | .finNonce => s.absorbing (· == s.padIndex + 3)
  | .finFold =>
    s.macAccepted && s.x.isSome && s.hist.isSome && s.t0.isSome && s.i.isSome &&
      Nat.ble s.readI 8
  | .finTag =>
    s.macAccepted && s.x.isSome && s.hist.isSome && s.t0.isSome && s.i == some 9

/-- The invariant of the sequencer: a store that the next row reads holds a value, and a store whose
command has ended holds none (R24); `CTX_VALID` is 1 only over a whole Context (R20, R105); `FAULT`
is 1 exactly in FAULT_HALT (R140, R163). -/
def State.sound (s : State) : Bool :=
  s.staged && (!s.ctxValid || s.contextWritten) && (s.fault == (s.phase == .faultHalt))

/-! ## Which values the stores hold -/

/-- `CTX` is the Context of a key: what a completed DERIVE leaves (R20, R106). -/
def State.derivedSlot (s : State) : Prop :=
  ∃ key, s.context = deriveContext key

/-- The words of the Context that a DERIVE in flight has made so far are those of its key: `ni`
words of `init`, `np` of the pool (R102, R103). -/
def State.derivingTo (s : State) (ni np : Nat) : Prop :=
  s.readKi = expand s.readKey ∧
    (∀ j < ni, s.readInit j = derivedWord (expand s.readKey) j) ∧
    (∀ k < np, s.readPool k = derivedWord (expand s.readKey) (k + 9))

/-- The register and the tap history are those of the first `n` rounds on the message latched
(R21, R120). -/
def State.absorbedTo (s : State) (n : Nat) : Prop :=
  s.readX = absorbRounds Config.params s.context.init s.readMsg n ∧
    s.readHist = historyAfter s.readMsg n

/-- The values the stores hold in each phase are those of the functions of the contract: the words
of `derive_context` made so far, the register after `t` rounds, the accumulator after `i` folds. -/
def State.faithful (s : State) : Prop :=
  match s.phase with
  | .idle | .faultHalt | .macCheck | .auLoad => s.ctxValid = true → s.derivedSlot
  | .ctxKs => True
  | .ctxInit => s.derivingTo s.readC 0
  | .ctxPool => s.derivingTo 9 (s.readC - 9)
  | .ctxFk1 => s.derivingTo 9 18
  | .ctxFk2 => s.derivingTo 9 18 ∧ s.readFk1 = expand (derivedWord (expand s.readKey) 27)
  | .auWarmup1 | .auWarmup2 | .auWarmup3 | .auSteady | .auPad | .auDrain1 | .auDrain2
  | .auDrain3 => s.derivedSlot ∧ s.absorbedTo s.readT
  | .finNonce => s.derivedSlot ∧ s.absorbedTo (s.padIndex + 4)
  | .finFold | .finTag =>
    s.derivedSlot ∧ s.absorbedTo (s.padIndex + 4) ∧
      s.readT0 = foldedTo s.context s.readX s.readNonce s.readI

end Sys2Proof.Machine
end

