-- ==== Sys2Proof/Certificates/Slice0/Obligations.lean ====
section
/-! DEFINITION. The statements about the model. Each is named after what it states; its docstring cites
the rule of spec/ it formalises. An equation `exec i s = .next (s with ...)` says the result, the
frame and the completion of an instruction at once: every field that the braces do not name, the
message space among them, is as before. -/

section

open Sys2Proof Sys2Proof.Machine
open Host (Outcome)

/-! ## The cipher (40_block_cipher.md) -/

/-- R71: the table is the affine map of the field inverse (`inv` gives inverses), it is a bijection
without fixed points, and takes the values the rule quotes. -/
def Obligations.SboxIsAffineInverse : Prop :=
  (∀ a : Byte, a ≠ 0 → gmul a (inv a) = 0x01) ∧ inv 0x00 = 0x00 ∧
  (∀ a : Byte, sbox a = inv a ^^^ (inv a).rotateLeft 1 ^^^ (inv a).rotateLeft 2 ^^^
    (inv a).rotateLeft 3 ^^^ (inv a).rotateLeft 4 ^^^ 0x63) ∧
  Function.Bijective sbox ∧ (∀ a, sbox a ≠ a) ∧
  sbox 0x00 = 0x63 ∧ sbox 0x53 = 0xED ∧ sbox 0xFF = 0x16

/-- R72. -/
def Obligations.SubBytesActsOnEachByte : Prop :=
  (∀ (w : Word) (k : Nat), k < 16 → byteAt (subBytes w) k = sbox (byteAt w k)) ∧
  (∀ (v w : Word) (k : Nat), k < 16 → byteAt v k = byteAt w k →
    byteAt (subBytes v) k = byteAt (subBytes w) k) ∧
  subBytes 0x000102030405060708090a0b0c0d0e0f = 0x637c777bf26b6fc53001672bfed7ab76

/-- R73. -/
def Obligations.ShiftRowsRotatesRows : Prop :=
  (∀ (w : Word) (r c : Nat), r < 4 → c < 4 →
    byteAt (shiftRows w) (r + 4 * c) = byteAt w (r + 4 * ((c + r) % 4))) ∧
  (∀ w : Word, wordBytes (shiftRows w) =
    [0, 5, 10, 15, 4, 9, 14, 3, 8, 13, 2, 7, 12, 1, 6, 11].map (byteAt w)) ∧
  (∀ (w : Word) (c : Nat), c < 4 → byteAt (shiftRows w) (4 * c) = byteAt w (4 * c)) ∧
  shiftRows 0x000102030405060708090a0b0c0d0e0f = 0x00050a0f04090e03080d02070c01060b

/-- R74. -/
def Obligations.MixColumnsMixesEachColumn : Prop :=
  (∀ (w : Word) (c : Nat), c < 4 →
    byteAt (mixColumns w) (4 * c) = mul2 (byteAt w (4 * c)) ^^^ mul3 (byteAt w (4 * c + 1)) ^^^
      byteAt w (4 * c + 2) ^^^ byteAt w (4 * c + 3) ∧
    byteAt (mixColumns w) (4 * c + 1) = byteAt w (4 * c) ^^^ mul2 (byteAt w (4 * c + 1)) ^^^
      mul3 (byteAt w (4 * c + 2)) ^^^ byteAt w (4 * c + 3) ∧
    byteAt (mixColumns w) (4 * c + 2) = byteAt w (4 * c) ^^^ byteAt w (4 * c + 1) ^^^
      mul2 (byteAt w (4 * c + 2)) ^^^ mul3 (byteAt w (4 * c + 3)) ∧
    byteAt (mixColumns w) (4 * c + 3) = mul3 (byteAt w (4 * c)) ^^^ byteAt w (4 * c + 1) ^^^
      byteAt w (4 * c + 2) ^^^ mul2 (byteAt w (4 * c + 3))) ∧
  (∀ (w : Word) (c : Nat) (a : Byte), c < 4 → (∀ q < 4, byteAt w (4 * c + q) = a) →
    ∀ q < 4, byteAt (mixColumns w) (4 * c + q) = a) ∧
  mixColumns 0xdb135345f20a225c01010101c6c6c6c6 = 0x8e4da1bc9fdc589d01010101c6c6c6c6 ∧
  mixColumns 0x000102030405060708090a0b0c0d0e0f = 0x02070005060304010a0f080d0e0b0c09

/-- R76: the four steps in order, the key entering by XOR only, and the round a bijection under each
key. -/
def Obligations.AesRoundIsBijectiveUnderEachKey : Prop :=
  (∀ x k : Word, aesRound x k = mixColumns (shiftRows (subBytes x)) ^^^ k) ∧
  aesRound zeroWord zeroWord = 0x63636363636363636363636363636363 ∧
  (∀ x k k' : Word, aesRound x k ^^^ aesRound x k' = k ^^^ k') ∧
  (∀ k : Word, Function.Bijective fun x => aesRound x k) ∧
  aesRound 0x000102030405060708090a0b0c0d0e0f zeroWord = 0x6a6a5c452c6d3351b0d95d61279c215c ∧
  aesRound 0x193de3bea0f4e22b9ac68d2ae9f84808 0xa0fafe1788542cb123a339392a6c7605 =
    0xa49c7ff2689f352b6b5bea43026a5049

/-- R77, R78: whitening, nine full rounds, one round without the column mix; for each schedule a
bijection; and the known answers of 96_vectors_cipher_and_context.md section 2.3. -/
def Obligations.EncryptIsBijectiveUnderEachSchedule : Prop :=
  (∀ x k : Word, aesFinalRound x k = shiftRows (subBytes x) ^^^ k) ∧
  (∀ (k : Vector Word 11) (b : Word), encrypt k b =
    aesFinalRound (aesRound (aesRound (aesRound (aesRound (aesRound (aesRound (aesRound (aesRound
      (aesRound (b ^^^ k[0]) k[1]) k[2]) k[3]) k[4]) k[5]) k[6]) k[7]) k[8]) k[9]) k[10]) ∧
  (∀ k : Vector Word 11, Function.Bijective (encrypt k)) ∧
  aesFinalRound zeroWord zeroWord = 0x63636363636363636363636363636363 ∧
  aesFinalRound 0x000102030405060708090a0b0c0d0e0f 0x000102030405060708090a0b0c0d0e0f =
    0x636a6575f604ad7c38de7dcef2716124 ∧
  encrypt (expand 0x2b7e151628aed2a6abf7158809cf4f3c) 0x3243f6a8885a308d313198a2e0370734 =
    0x3925841d02dc09fbdc118597196a0b32 ∧
  encrypt (expand 0x000102030405060708090a0b0c0d0e0f) 0x00112233445566778899aabbccddeeff =
    0x69c4e0d86a7b0430d8cdb78070b4c55a ∧
  encrypt (expand zeroWord) zeroWord = 0x66e94bd4ef8a2c3b884cfa59ca342b2e

/-- R79: whitening, nine full rounds, a tenth full round with a zero key (the spec's reading,
decision D11); for each window a bijection; and the values the rule quotes. -/
def Obligations.PermuteTruncatedIsBijectiveUnderEachWindow : Prop :=
  (∀ (w : Vector Word 10) (b : Word), permuteTruncated w b =
    aesRound (aesRound (aesRound (aesRound (aesRound (aesRound (aesRound (aesRound (aesRound
      (aesRound (b ^^^ w[0]) w[1]) w[2]) w[3]) w[4]) w[5]) w[6]) w[7]) w[8]) w[9]) zeroWord) ∧
  (∀ w : Vector Word 10, Function.Bijective (permuteTruncated w)) ∧
  permuteTruncated
    (Vector.ofFn fun r : Fin 10 => (expand 0x000102030405060708090a0b0c0d0e0f)[r.val])
    0x00112233445566778899aabbccddeeff = 0xca70bcf34ab9936f089fdcb1aa83e908 ∧
  permuteTruncated (Vector.replicate 10 zeroWord) zeroWord = 0x36363636363636363636363636363636

/-! ## The key schedule (41_key_schedule.md) -/

/-- R90, R91: the parts of the recurrence. -/
def Obligations.KeyScheduleParts : Prop :=
  (∀ a0 a1 a2 a3 : Byte,
    rotWord (a0 ++ a1 ++ a2 ++ a3 : KeyWord32) = (a1 ++ a2 ++ a3 ++ a0 : KeyWord32) ∧
    subWord (a0 ++ a1 ++ a2 ++ a3 : KeyWord32) =
      (sbox a0 ++ sbox a1 ++ sbox a2 ++ sbox a3 : KeyWord32)) ∧
  (∀ a0 a1 a2 a3 b0 b1 b2 b3 : Byte,
    (a0 ++ a1 ++ a2 ++ a3 : KeyWord32) ^^^ (b0 ++ b1 ++ b2 ++ b3 : KeyWord32) =
      ((a0 ^^^ b0) ++ (a1 ^^^ b1) ++ (a2 ^^^ b2) ++ (a3 ^^^ b3) : KeyWord32)) ∧
  rotWord 0x09cf4f3c = 0xcf4f3c09 ∧ subWord 0xcf4f3c09 = 0x8a84eb01 ∧
  (∀ r : Nat, rcon (r + 1) =
    (roundConstant r ++ (0x00 : Byte) ++ (0x00 : Byte) ++ (0x00 : Byte) : KeyWord32)) ∧
  roundConstant 0 = 0x01 ∧ (∀ r, roundConstant (r + 1) = xtime (roundConstant r)) ∧
  (List.range 10).map roundConstant =
    [0x01, 0x02, 0x04, 0x08, 0x10, 0x20, 0x40, 0x80, 0x1b, 0x36]

/-- R92: the recurrence, in words of 4 bytes, and the key as round key 0. -/
def Obligations.ExpandFollowsTheRecurrence : Prop :=
  (∀ key : Word, (expand key)[0] = key ∧
    ∀ (r : Nat) (hr : r < 10),
      keyWord (expand key)[r + 1] 0 = keyWord (expand key)[r] 0 ^^^
        subWord (rotWord (keyWord (expand key)[r] 3)) ^^^ rcon (r + 1) ∧
      ∀ q < 3, keyWord (expand key)[r + 1] (q + 1) =
        keyWord (expand key)[r + 1] q ^^^ keyWord (expand key)[r] (q + 1)) ∧
  (expand zeroWord)[1] = 0x62636363626363636263636362636363 ∧
  (expand 0x2b7e151628aed2a6abf7158809cf4f3c)[1] = 0xa0fafe1788542cb123a339392a6c7605 ∧
  (expand 0x2b7e151628aed2a6abf7158809cf4f3c)[10] = 0xd014f9a8c9ee2589e13f0cc8b6630ca6

/-! ## Context derivation (42_context_derivation.md) -/

/-- R106: the 27 words of `init` and the pool and the two finalization keys are 29 different words,
for every key. -/
def Obligations.DerivedWordsAreDistinct : Prop :=
  ∀ key : Word,
    ((deriveContext key).init.toList ++ (deriveContext key).pool.toList ++
      [(deriveContext key).fk1[0], (deriveContext key).fk2[0]]).Nodup

/-- R101: the code of CTX.KS, its whole effect, and the schedule of the zero key. -/
def Obligations.CtxKsExpandsTheKey : Prop :=
  encode .ctxKs = .phase 0x01 ∧
  (∀ (s : State) (key : Word), s.key = some key →
    exec .ctxKs s = .next { s with ki := some (expand key), c := some 0, phase := .ctxInit }) ∧
  (expand zeroWord)[1] = 0x62636363626363636263636362636363 ∧
  (expand zeroWord)[10] = 0xb4ef5bcb3e92e21123e951cf6f8f188e

/-- R102, R144; and the counter block of R100 under the default `CTR_ORDER` (a choice of the spec,
decision D5; log entry 5): byte 0 is the counter, the others are zero. -/
def Obligations.CtxInitWritesOneInitWord : Prop :=
  (∀ c ≤ 28, wordBytes (counterBlock Config.params c) =
    BitVec.ofNat 8 c :: List.replicate 15 0x00) ∧
  ∀ (s : State) (ki : Vector Word 11) (c : Nat) (hc : c < 9), s.ki = some ki → s.c = some c →
    exec .ctxInit s = .next { s with
      ctxInit := s.ctxInit.set c (some (encrypt ki (counterBlock Config.params c))) hc
      c := some (c + 1)
      phase := if c < 8 then .ctxInit else .ctxPool }

/-- R103, R144. -/
def Obligations.CtxPoolWritesOnePoolWord : Prop :=
  ∀ (s : State) (ki : Vector Word 11) (k : Nat) (hk : k < 18), s.ki = some ki →
    s.c = some (k + 9) →
    exec .ctxPool s = .next { s with
      ctxPool := s.ctxPool.set k (some (encrypt ki (counterBlock Config.params (k + 9)))) hk
      c := some (k + 10)
      phase := if k < 17 then .ctxPool else .ctxFk1 }

/-- R104, R144: the encrypted counter block 27 is used as a key and is `fk1[0]`. -/
def Obligations.CtxFk1WritesTheFirstFinalizationSchedule : Prop :=
  ∀ (s : State) (ki : Vector Word 11), s.ki = some ki →
    exec .ctxFk1 s = .next { s with
      ctxFk1 := some (expand (encrypt ki (counterBlock Config.params 27)))
      c := some 28
      phase := .ctxFk2 } ∧
    (expand (encrypt ki (counterBlock Config.params 27)))[0] =
      encrypt ki (counterBlock Config.params 27)

/-- R105, R24: the last schedule, the flag, the answer OK, and the end of the DERIVE. In a sound
state all 49 words of the Context then hold values. That the counter holds no value then is the
model's reading of R24 (log entry 6). -/
def Obligations.CtxFk2PublishesTheContext : Prop :=
  ∀ (s : State) (ki : Vector Word 11), s.ki = some ki →
    exec .ctxFk2 s = .next { s with
      ctxFk2 := some (expand (encrypt ki (counterBlock Config.params 28)))
      ctxValid := true
      out := s.out ++ [0x00]
      ki := none, key := none, c := none
      phase := .idle } ∧
    (s.sound = true → s.phase = .ctxFk2 → ∀ t, exec .ctxFk2 s = .next t → t.contextWritten = true)

/-! ## Absorption (43_absorption.md, 20_memory.md) -/

/-- R110, for every table `KEYSEL` and the default feedback word: the nine words of the new register,
from the old one; the round is a bijection on registers; `m2` and the tap move role 0 only. With the
default table (log entry 5) the keys are those of R111. -/
def Obligations.AuRoundRotatesTheRegister : Prop :=
  (∀ (p : Params) (x : Vector Word 9) (m0 m1 m2 m3 tap : Word), p.fbBase = [8] →
    (auRound p x m0 m1 m2 m3 tap)[0] = x[8] ^^^ m2 ^^^ tap ∧
    ∀ (j : Nat) (hj : j < 8), (auRound p x m0 m1 m2 m3 tap)[j + 1] =
      aesRound x[j] (selectKey p.keySel[j] m0 m1 m3)) ∧
  (∀ (p : Params) (m0 m1 m2 m3 tap : Word), p.fbBase = [8] →
    Function.Bijective fun x => auRound p x m0 m1 m2 m3 tap) ∧
  (∀ (p : Params) (x : Vector Word 9) (m0 m1 m2 m2' m3 tap tap' : Word) (j : Nat) (hj : j < 8),
    (auRound p x m0 m1 m2 m3 tap)[j + 1] = (auRound p x m0 m1 m2' m3 tap')[j + 1]) ∧
  (∀ (x : Vector Word 9) (m0 m1 m2 m3 tap : Word), auRound Config.params x m0 m1 m2 m3 tap =
    #v[x[8] ^^^ m2 ^^^ tap, aesRound x[0] m3, aesRound x[1] m3, aesRound x[2] m0,
       aesRound x[3] m0, aesRound x[4] m0, aesRound x[5] m1, aesRound x[6] m1, aesRound x[7] m3])

/-- R36, R37: byte `k` of word `i` of the padded message is the message byte there, the pad byte
right after the last, zero from then on; outside the padded message the words are zero. -/
def Obligations.MessageWordsAreThePaddedBytes : Prop :=
  ∀ (m : Memory),
    (∀ (i : Nat) (k : Nat), i < 4 * (nfull m.length + 1) → k < 16 →
      byteAt (mw m i) k =
        if h : 16 * i + k < m.length then m[16 * i + k]
        else if 16 * i + k = m.length then 0x01 else 0x00) ∧
    (∀ i : Int, i < 0 ∨ 4 * ((nfull m.length : Int) + 1) ≤ i → mw m i = zeroWord)

/-- R36: the padding is injective, and the padded message is whole blocks. -/
def Obligations.PaddingIsInjective : Prop :=
  Function.Injective paddedMessage ∧
  ∀ m : Memory, (paddedMessage m).length = 64 * (nfull m.length + 1)

/-- R21: a history of the last ten message words gives the tap of every round. -/
def Obligations.TapHistoryGivesTheTap : Prop :=
  ∀ (m : Memory) (n : Nat),
    (∀ (k : Nat) (hk : k < 10), (historyAfter m n)[k] = mw m (4 * (n : Int) - 1 - k)) ∧
    historyTap (historyAfter m n) =
      mw m (4 * (n : Int) - 3) ^^^ mw m (4 * n - 6) ^^^ mw m (4 * n - 7) ^^^ mw m (4 * n - 10)

/-- R121, R21. The field `hist`, which a model need not hold (R21), is the model's choice (log entry
10). -/
def Obligations.AuLoadTakesTheInitialRegister : Prop :=
  ∀ (s : State) (v : Vector Word 9), s.ctxInit = v.map some →
    exec .auLoad s = .next { s with
      x := some v, hist := some (Vector.replicate 10 zeroWord), t := some 0
      phase := .auWarmup1 }

/-- R113: the code of AU.WARMUP1; round 0 takes block 0 and no tap. The field `hist`, which a model
need not hold (R21), is the model's choice (log entry 10). -/
def Obligations.AuWarmup1AbsorbsBlockZero : Prop :=
  encode .auWarmup1 = .phase 0x0A ∧
  ∀ (s : State) (x : Vector Word 9) (h : Vector Word 10) (m : Memory),
    s.x = some x → s.hist = some h → s.msg = some m →
    exec .auWarmup1 s = .next { s with
      x := some (auRound Config.params x (mw m 0) (mw m 1) (mw m 2) (mw m 3) zeroWord)
      hist := some (shiftHist h (mw m 0) (mw m 1) (mw m 2) (mw m 3))
      t := some 1, phase := .auWarmup2 } ∧
    (auRound Config.params x (mw m 0) (mw m 1) (mw m 2) (mw m 3) zeroWord)[0] = x[8] ^^^ mw m 2

/-- R114: round 1 takes block 1; of the four tap words only `MW(1)` exists. The field `hist`, which
a model need not hold (R21), is the model's choice (log entry 10). -/
def Obligations.AuWarmup2AbsorbsBlockOne : Prop :=
  ∀ (s : State) (x : Vector Word 9) (h : Vector Word 10) (m : Memory),
    s.x = some x → s.hist = some h → s.msg = some m →
    exec .auWarmup2 s = .next { s with
      x := some (auRound Config.params x (mw m 4) (mw m 5) (mw m 6) (mw m 7) (mw m 1))
      hist := some (shiftHist h (mw m 4) (mw m 5) (mw m 6) (mw m 7))
      t := some 2, phase := .auWarmup3 } ∧
    mw m (-2) = zeroWord ∧ mw m (-3) = zeroWord ∧ mw m (-6) = zeroWord

/-- R115, R144: round 2 takes block 2 and three tap words; what follows depends on `nfull`. The
field `hist`, which a model need not hold (R21), is the model's choice (log entry 10). -/
def Obligations.AuWarmup3AbsorbsBlockTwo : Prop :=
  ∀ (s : State) (x : Vector Word 9) (h : Vector Word 10) (m : Memory) (len : BitVec 64),
    s.x = some x → s.hist = some h → s.msg = some m → s.len = some len →
    exec .auWarmup3 s = .next { s with
      x := some (auRound Config.params x (mw m 8) (mw m 9) (mw m 10) (mw m 11)
        (mw m 5 ^^^ mw m 2 ^^^ mw m 1))
      hist := some (shiftHist h (mw m 8) (mw m 9) (mw m 10) (mw m 11))
      t := some 3
      phase := if len.toNat / 64 > 3 then .auSteady else .auPad } ∧
    mw m (-2) = zeroWord

/-- R112, R144: round `t` takes block `t` and the full tap. The field `hist`, which a model need not
hold (R21), is the model's choice (log entry 10). -/
def Obligations.AuSteadyAbsorbsBlockT : Prop :=
  ∀ (s : State) (x : Vector Word 9) (h : Vector Word 10) (m : Memory) (len : BitVec 64) (t : Nat),
    s.x = some x → s.hist = some h → s.msg = some m → s.len = some len → s.t = some t →
    exec .auSteady s = .next { s with
      x := some (auRound Config.params x (mw m (4 * t)) (mw m (4 * t + 1)) (mw m (4 * t + 2))
        (mw m (4 * t + 3))
        (mw m (4 * t - 3) ^^^ mw m (4 * t - 6) ^^^ mw m (4 * t - 7) ^^^ mw m (4 * t - 10)))
      hist := some (shiftHist h (mw m (4 * t)) (mw m (4 * t + 1)) (mw m (4 * t + 2))
        (mw m (4 * t + 3)))
      t := some (t + 1)
      phase := if t + 1 < len.toNat / 64 then .auSteady else .auPad }

/-- R116, R144: the padding block and the full tap. The field `hist`, which a model need not hold
(R21), is the model's choice (log entry 10). -/
def Obligations.AuPadAbsorbsThePaddingBlock : Prop :=
  ∀ (s : State) (x : Vector Word 9) (h : Vector Word 10) (m : Memory) (len : BitVec 64)
    (t p : Nat),
    s.x = some x → s.hist = some h → s.msg = some m → s.len = some len → s.t = some t →
    p = len.toNat / 64 →
    exec .auPad s = .next { s with
      x := some (auRound Config.params x (mw m (4 * p)) (mw m (4 * p + 1)) (mw m (4 * p + 2))
        (mw m (4 * p + 3))
        (mw m (4 * p - 3) ^^^ mw m (4 * p - 6) ^^^ mw m (4 * p - 7) ^^^ mw m (4 * p - 10)))
      hist := some (shiftHist h (mw m (4 * p)) (mw m (4 * p + 1)) (mw m (4 * p + 2))
        (mw m (4 * p + 3)))
      t := some (t + 1)
      phase := .auDrain1 }

/-- R117 to R119, R144: the three drain rounds take a zero block and the tap words that are left,
and the tap words they leave out are zero. The field `hist`, which a model need not hold (R21), is
the model's choice (log entry 10). -/
def Obligations.AuDrainsApplyTheOutstandingTaps : Prop :=
  ∀ (s : State) (x : Vector Word 9) (h : Vector Word 10) (m : Memory) (len : BitVec 64)
    (t p : Nat),
    s.x = some x → s.hist = some h → s.msg = some m → s.len = some len → s.t = some t →
    p = len.toNat / 64 →
    exec .auDrain1 s = .next { s with
      x := some (auRound Config.params x zeroWord zeroWord zeroWord zeroWord
        (mw m (4 * p + 1) ^^^ mw m (4 * p - 2) ^^^ mw m (4 * p - 3) ^^^ mw m (4 * p - 6)))
      hist := some (shiftHist h zeroWord zeroWord zeroWord zeroWord)
      t := some (t + 1), phase := .auDrain2 } ∧
    exec .auDrain2 s = .next { s with
      x := some (auRound Config.params x zeroWord zeroWord zeroWord zeroWord
        (mw m (4 * p + 2) ^^^ mw m (4 * p + 1) ^^^ mw m (4 * p - 2)))
      hist := some (shiftHist h zeroWord zeroWord zeroWord zeroWord)
      t := some (t + 1), phase := .auDrain3 } ∧
    exec .auDrain3 s = .next { s with
      x := some (auRound Config.params x zeroWord zeroWord zeroWord zeroWord (mw m (4 * p + 2)))
      hist := some (shiftHist h zeroWord zeroWord zeroWord zeroWord)
      phase := .finNonce } ∧
    (m.length = len.toNat →
      mw m (4 * p + 5) = zeroWord ∧ mw m (4 * p + 6) = zeroWord ∧ mw m (4 * p + 9) = zeroWord)

/-- R120: in a sound state each of the eight absorption micro-operations is the one formula, at the
round that `t` counts. -/
def Obligations.EightRoundsAreOneFormula : Prop :=
  ∀ s : State, s.sound = true →
    s.phase ∈ [.auWarmup1, .auWarmup2, .auWarmup3, .auSteady, .auPad, .auDrain1, .auDrain2,
      .auDrain3] →
    ∃ t, step s = .next t ∧
      t.x = some (uniformRound Config.params s.readMsg s.readT s.readX)

/-! ## The finalizer (44_finalizer.md) -/

/-- R131: the nonce, whitened under `fk1`; and its value for the zero key and nonce. -/
def Obligations.FinNonceWhitensTheNonce : Prop :=
  (∀ (s : State) (n : Word) (fk1 : Vector Word 11), s.nonce = some n → s.ctxFk1 = some fk1 →
    exec .finNonce s = .next { s with
      t0 := some (n ^^^ encrypt fk1 n), i := some 0, phase := .finFold }) ∧
  zeroWord ^^^ encrypt (deriveContext zeroWord).fk1 zeroWord = 0x63d8c4fbaf379779ca33ad1337bc75d6

/-- R130, R132, R144: digest word `i` under the ten pool words from `i` on. -/
def Obligations.FinFoldFoldsOneDigestWord : Prop :=
  ∀ (s : State) (pool : Vector Word 18) (x : Vector Word 9) (t0 : Word) (i : Nat) (hi : i < 9),
    s.ctxPool = pool.map some → s.x = some x → s.t0 = some t0 → s.i = some i →
    exec .finFold s = .next { s with
      t0 := some (t0 ^^^ permuteTruncated
        #v[pool[i], pool[i + 1], pool[i + 2], pool[i + 3], pool[i + 4], pool[i + 5], pool[i + 6],
          pool[i + 7], pool[i + 8], pool[i + 9]] x[i])
      i := some (i + 1)
      phase := if i < 8 then .finFold else .finTag }

/-- R133, R24: the tag, the 17-byte answer, the end of the MAC; the Context and the flags stay. That
the counters and the tap history hold no value then is the model's reading of R24 (log entry 6). -/
def Obligations.FinTagAnswersTheTag : Prop :=
  (∀ (s : State) (t0 : Word) (fk2 : Vector Word 11), s.t0 = some t0 → s.ctxFk2 = some fk2 →
    exec .finTag s = .next { s with
      out := s.out ++ 0x00 :: wordBytes (encrypt fk2 t0)
      x := none, t0 := none, nonce := none, len := none, msg := none, hist := none
      t := none, i := none, phase := .idle }) ∧
  encrypt (deriveContext zeroWord).fk2 0x1ed753081169b657f89eb467eb4e2758 =
    0x7e076933fcbb0f52b8d1891f2f6584ba

/-! ## Commands and events (45_commands.md, 60_exceptions.md) -/

/-- R140, R51: a DERIVE at the head of `IN` is accepted. That the row is the acceptance alone is the
model's reading of R145 (log entry 3). -/
def Obligations.DeriveIsAccepted : Prop :=
  ∀ (s : State) (key : Word) (rest : List Byte), s.fault = false →
    s.inp = 0x01 :: (wordBytes key ++ rest) →
    exec (.derive key) s = .next { s with key := some key, inp := rest, phase := .ctxKs }

/-- R140, R52: a MAC at the head of `IN` is accepted, whatever its length and whether or not there
is a Context. That the row is the acceptance alone is the model's reading of R145 (log entry 3). -/
def Obligations.MacIsAccepted : Prop :=
  ∀ (s : State) (nonce : Word) (len : BitVec 64) (msg rest : List Byte), s.fault = false →
    msg.length = len.toNat →
    s.inp = 0x02 :: (wordBytes nonce ++ (leBytes 8 len.toNat ++ (msg ++ rest))) →
    exec (.mac nonce len msg) s = .next { s with
      nonce := some nonce, len := some len, msg := some msg, inp := rest, phase := .macCheck }

/-- R163, R55: an illegal opcode byte is removed and answered `0xFF`; `FAULT` is set and the block
halts. -/
def Obligations.IllegalOpcodeHaltsTheBlock : Prop :=
  ∀ (s : State) (b : Byte) (rest : List Byte), s.fault = false → b ≠ 0x01 → b ≠ 0x02 →
    s.inp = b :: rest →
    exec (.illegal b) s = .next { s with
      inp := rest, out := s.out ++ [0xFF], fault := true, phase := .faultHalt }

/-- R140: what IDLE does with the head of `IN`, in each of its cases, while `FAULT` is 0. -/
def Obligations.IdleLooksAtTheHeadOfIn : Prop :=
  ∀ s : State, s.fault = false →
    (s.inp = [] → exec .idle s = .next s) ∧
    (∀ rest, s.inp = 0x01 :: rest → rest.length < 16 → exec .idle s = .next s) ∧
    (∀ rest, s.inp = 0x01 :: rest → 16 ≤ rest.length →
      exec .idle s = .next { s with
        key := some (wordOfBytes (rest.take 16)), inp := rest.drop 16, phase := .ctxKs }) ∧
    (∀ rest, s.inp = 0x02 :: rest → rest.length < 24 → exec .idle s = .next s) ∧
    (∀ rest (len : BitVec 64), s.inp = 0x02 :: rest → 24 ≤ rest.length →
      (rest.drop 16).take 8 = leBytes 8 len.toNat →
      (rest.length < 24 + len.toNat → exec .idle s = .next s) ∧
      (24 + len.toNat ≤ rest.length →
        exec .idle s = .next { s with
          nonce := some (wordOfBytes (rest.take 16)), len := some len
          msg := some ((rest.drop 24).take len.toNat), inp := rest.drop (24 + len.toNat)
          phase := .macCheck })) ∧
    (∀ b rest, s.inp = b :: rest → b ≠ 0x01 → b ≠ 0x02 →
      exec .idle s = .next { s with
        inp := rest, out := s.out ++ [0xFF], fault := true, phase := .faultHalt })

/-- R20: while `FAULT` is 1 the block accepts no command. That a row accepted out of turn then changes
nothing is the model's choice (log entry 8). -/
def Obligations.FaultBlocksEveryCommand : Prop :=
  ∀ (s : State) (i : Instr), s.fault = true → (i.onStream = true ∨ i = .idle) →
    exec i s = .next s

/-- R143, R165, R166: the Context first, then the length, on the unsigned `L`; a MAC that fails
leaves nothing but its answer, and its latches hold no value. That the latches hold no value after
an error is the model's reading of R18 and R24 (log entry 6). -/
def Obligations.MacCheckChecksContextThenLength : Prop :=
  ∀ (s : State) (len : BitVec 64), s.len = some len →
    (s.ctxValid = false → exec .macCheck s = .next { s with
      out := s.out ++ [0x02], nonce := none, len := none, msg := none, phase := .idle }) ∧
    (s.ctxValid = true → len.toNat < 192 → exec .macCheck s = .next { s with
      out := s.out ++ [0x01], nonce := none, len := none, msg := none, phase := .idle }) ∧
    (s.ctxValid = true → 192 ≤ len.toNat → exec .macCheck s = .next { s with phase := .auLoad })

/-- R163: in FAULT_HALT nothing changes, however many steps are taken and whatever the host writes;
reset is the exit. -/
def Obligations.HaltLastsUntilReset : Prop :=
  ∀ (s : State) (n : Nat) (bs : List Byte), s.phase = .faultHalt →
    exec .faultHalt s = .next s ∧
    Sys2Proof.core.run n s = .next s ∧
    Sys2Proof.core.run n (s.hostSend bs) = .next (s.hostSend bs) ∧
    s.hostReset = State.reset

/-! ## Encodings (30_encoding.md) -/

/-- R51, R52, R55, R56: decoding an encoded instruction gives it back, and on the stream the bytes
after it. -/
def Obligations.DecodeOfEncodeIsTheInstruction : Prop :=
  ∀ i : Instr, i.wf = true →
    decode (encode i) = .ok (i, []) ∧
    (i.onStream = true → ∀ rest, decodePacket (encodePacket i ++ rest) = .ok (i, rest))

/-- R51, R52, R55, R56: whatever decodes is well formed and is its own encoding, so that no two
packets and no two codes mean the same. -/
def Obligations.EncodeOfDecodeIsTheBytes : Prop :=
  (∀ (bs rest : List Byte) (i : Instr), decodePacket bs = .ok (i, rest) →
    i.wf = true ∧ i.onStream = true ∧ encodePacket i ++ rest = bs) ∧
  (∀ (code : BitVec 5) (p : Phase), phaseOfCode code = some p →
    phaseCode p = code ∧ decode (.phase code) = .ok (phaseInstr p, [])) ∧
  (∀ code : BitVec 5, phaseOfCode code = none ↔
    code ∈ [0x06, 0x07, 0x15, 0x16, 0x17, 0x18, 0x19, 0x1A, 0x1B, 0x1C, 0x1D, 0x1E])

/-- R53: a packet that has not fully arrived is waited for, and nothing is consumed; when the rest
arrives the command runs. -/
def Obligations.IncompletePacketIsWaitedFor : Prop :=
  ∀ (s : State) (i : Instr) (n : Nat), i.wf = true → i.onStream = true → s.phase = .idle →
    n < (encodePacket i).length → s.inp = (encodePacket i).take n →
    step s = .next s ∧
    step (s.hostSend ((encodePacket i).drop n)) = exec i (s.hostSend ((encodePacket i).drop n))

/-- Words of the encodings of R51, R52, R55 and R56, written out, decode to what they stand for. -/
def Obligations.WordsDecodeToTheirInstructions : Prop :=
  decodePacket (0x01 :: (List.range 16).map (BitVec.ofNat 8)) =
    .ok (.derive 0x000102030405060708090a0b0c0d0e0f, []) ∧
  decodePacket ([0x02, 0xf0, 0xf1, 0xf2, 0xf3, 0xf4, 0xf5, 0xf6, 0xf7, 0xf8, 0xf9, 0xfa, 0xfb, 0xfc,
    0xfd, 0xfe, 0xff, 0x02, 0, 0, 0, 0, 0, 0, 0, 0xaa, 0xbb, 0xcc]) =
    .ok (.mac 0xf0f1f2f3f4f5f6f7f8f9fafbfcfdfeff 2 [0xaa, 0xbb], [0xcc]) ∧
  decodePacket [0x03, 0x01] = .ok (.illegal 0x03, [0x01]) ∧
  decode (.phase 0x05) = .ok (.ctxFk2, []) ∧ decode (.phase 0x0D) = .ok (.auSteady, []) ∧
  decode (.phase 0x13) = .ok (.finFold, []) ∧ decode (.phase 0x1F) = .ok (.faultHalt, [])

/-- A step runs the decoded instruction (R140, R144): in IDLE the command at the head of `IN`, or
IDLE while there is none; in every other phase the row the phase's code decodes to. In IDLE the step
is the acceptance that the row IDLE describes, whichever row it runs. That a command's row is its
acceptance is the model's reading of R145 (log entry 3). -/
def Obligations.StepRunsTheDecodedInstruction : Prop :=
  ∀ s : State,
    (∀ i rest, s.phase = .idle → decodePacket s.inp = .ok (i, rest) → step s = exec i s) ∧
    (∀ e, s.phase = .idle → decodePacket s.inp = .error e → step s = exec .idle s) ∧
    (∀ i rest, s.phase ≠ .idle → decode (.phase (phaseCode s.phase)) = .ok (i, rest) →
      step s = exec i s) ∧
    (s.phase = .idle → step s = exec .idle s)

/-- R59: the pseudo-commands are their expansions, in lines and in bytes. -/
def Obligations.PseudoCommandsExpand : Prop :=
  (∀ key, expandLine (.deriveContext key) = [.derive key]) ∧
  (∀ nonce msg, expandLine (.computeTag nonce msg) = [.mac nonce msg]) ∧
  (∀ key nonce msg, expandLine (.tag key nonce msg) = [.derive key, .mac nonce msg]) ∧
  (∀ l, lineBytes l = (expandLine l).flatMap lineBytes)

/-! ## Reset and invariants (10_state.md, 70_reset_and_hazards.md) -/

/-- R23: the state after reset, whatever the block was doing when reset was asserted (R180). R23
leaves `t`, `c`, `i` unspecified; that they hold no value is R24's (log entry 2). -/
def Obligations.ResetLeavesTheStateOfR23 : Prop :=
  ∀ s : State, ∃ r, s.hostReset = r ∧ r = State.reset ∧ r.ctxValid = false ∧ r.fault = false ∧
    r.phase = .idle ∧
    r.t = none ∧ r.c = none ∧ r.i = none ∧
    (∀ j < 9, r.ctxInit[j]? = some none) ∧ (∀ k < 18, r.ctxPool[k]? = some none) ∧
    r.ctxFk1 = none ∧ r.ctxFk2 = none ∧
    r.x = none ∧ r.t0 = none ∧ r.ki = none ∧
    r.key = none ∧ r.nonce = none ∧ r.len = none ∧ r.msg = none ∧ r.hist = none ∧
    r.inp = [] ∧ r.out = [] ∧ step r = .next r

/-- The reset state is sound, and faithful to the contract. -/
def Obligations.ResetIsSound : Prop :=
  State.reset.sound = true ∧ State.reset.faithful

/-- R24, R19, R20: from every sound state a step gives a sound state, so a row that reads a store
finds a value in it, and the stores of an ended command hold none. That the counters and the tap
history hold no value then is the model's reading of R24 (log entry 6). -/
def Obligations.StepKeepsSound : Prop :=
  ∀ s t : State, s.sound = true → step s = .next t → t.sound = true

/-- R106, R120, R132, R21: from every sound state whose stores hold the values of the contract's
functions, a step gives a state whose stores do. The clause on the tap history is about a field that
a model need not hold (R21), the model's choice (log entry 10). -/
def Obligations.StepKeepsFaithful : Prop :=
  ∀ s t : State, s.sound = true → s.faithful → step s = .next t → t.faithful

/-- R22, R180: what the host does keeps a sound and faithful state so. That the host acts between
steps is the model's reading (log entry 13). -/
def Obligations.HostKeepsSound : Prop :=
  ∀ (s : State) (bs : List Byte) (n : Nat), s.sound = true → s.faithful →
    ((s.hostSend bs).sound = true ∧ (s.hostSend bs).faithful) ∧
    ((s.hostTake n).2.sound = true ∧ (s.hostTake n).2.faithful) ∧
    (s.hostReset.sound = true ∧ s.hostReset.faithful)

/-- The model's choice of log entry 2, on what R168 says: no row stops the block, in any state. -/
def Obligations.EveryRowAnswersANextState : Prop :=
  ∀ (i : Instr) (s : State), ∃ t, exec i s = .next t

/-! ## Rules of the whole machine -/

/-- R11: only the four micro-operations of DERIVE that make it write a word of the Context. -/
def Obligations.OnlyDeriveWritesTheContext : Prop :=
  ∀ s t : State, step s = .next t →
    s.phase ∉ [.ctxInit, .ctxPool, .ctxFk1, .ctxFk2] →
    t.ctxInit = s.ctxInit ∧ t.ctxPool = s.ctxPool ∧ t.ctxFk1 = s.ctxFk1 ∧ t.ctxFk2 = s.ctxFk2

/-- R20: `CTX_VALID` is set by CTX.FK2 and `FAULT` by an illegal opcode accepted in IDLE; no step
clears either. -/
def Obligations.FlagsChangeOnlyWhereSaid : Prop :=
  ∀ s t : State, step s = .next t →
    (t.ctxValid = (s.ctxValid || s.phase == .ctxFk2)) ∧
    (t.fault = true ↔ s.fault = true ∨
      (s.phase = .idle ∧ ∃ b rest, decodePacket s.inp = .ok (.illegal b, rest)))

/-- R22: a step removes bytes from the head of `IN` and in IDLE only, and appends to `OUT`. -/
def Obligations.StreamsMoveOneWay : Prop :=
  ∀ s t : State, step s = .next t →
    (∃ n, t.inp = s.inp.drop n) ∧ (∃ bs, t.out = s.out ++ bs) ∧
    (s.phase ≠ .idle → t.inp = s.inp)

/-- R54, R172: what a step can answer, and that it answers exactly when a command ends: the block
then waits in IDLE or is halted. -/
def Obligations.EachCommandIsAnsweredOnce : Prop :=
  ∀ s t : State, step s = .next t →
    (t.out = s.out ∨
      (t.out = s.out ++ [0x00] ∧ s.phase = .ctxFk2 ∧ t.phase = .idle) ∨
      (∃ tag : Word, t.out = s.out ++ 0x00 :: wordBytes tag ∧ s.phase = .finTag ∧
        t.phase = .idle) ∨
      (t.out = s.out ++ [0x01] ∧ s.phase = .macCheck ∧ t.phase = .idle) ∨
      (t.out = s.out ++ [0x02] ∧ s.phase = .macCheck ∧ t.phase = .idle) ∨
      (t.out = s.out ++ [0xFF] ∧ s.phase = .idle ∧ t.phase = .faultHalt)) ∧
    (t.phase = .idle → s.phase ≠ .idle → t.out ≠ s.out)

/-- R18, R31: while a command runs its operands do not change; every byte of the message space reads
as before. -/
def Obligations.OperandsStayWhileACommandRuns : Prop :=
  ∀ s t : State, step s = .next t → s.phase ≠ .idle → t.phase ≠ .idle →
    t.key = s.key ∧ t.nonce = s.nonce ∧ t.len = s.len ∧ t.msg = s.msg ∧
    ∀ a, memRead t.readMsg a 1 = memRead s.readMsg a 1

/-! ## Whole commands (R141, R142, R145, R146, R148, R186) -/

/-- R141, R145, R186: a DERIVE, its acceptance and its 30 micro-operations, is the atomic command:
the Context of the key in the slot, `CTX_VALID` set, the answer OK, nothing else left; it takes 290
AES rounds and 3 key expansions. That the counters and the tap history hold no value then is the
model's reading of R24 (log entry 6). -/
def Obligations.DeriveCommandIsDeriveContext : Prop :=
  ∀ (s : State) (key : Word) (rest : List Byte), s.phase = .idle → s.fault = false →
    s.inp = encodePacket (.derive key) ++ rest →
    ∃ a, exec (.derive key) s = .next a ∧ step s = .next a ∧
      Sys2Proof.core.run 30 a = .next { s with
        ctxInit := (deriveContext key).init.map some
        ctxPool := (deriveContext key).pool.map some
        ctxFk1 := some (deriveContext key).fk1
        ctxFk2 := some (deriveContext key).fk2
        ctxValid := true, inp := rest, out := s.out ++ [0x00]
        key := none, ki := none, c := none } ∧
      workOfRun 31 s = ⟨30, 290, 3⟩

/-- R142, R145, R186: an accepted MAC, its acceptance and its `nfull + 17` micro-operations,
answers the tag that `compute_tag` gives, and leaves the Context and the flags; it takes `8 *
(nfull + 4) + 110` AES rounds and no key expansion. That the counters and the tap history hold no
value then is the model's reading of R24 (log entry 6). -/
def Obligations.MacCommandIsComputeTag : Prop :=
  ∀ (s : State) (nonce : Word) (len : BitVec 64) (msg rest : List Byte),
    s.phase = .idle → s.fault = false → s.ctxValid = true →
    msg.length = len.toNat → 192 ≤ len.toNat →
    s.inp = encodePacket (.mac nonce len msg) ++ rest →
    ∃ tag a, computeTag s.context nonce msg = .ok tag ∧
      exec (.mac nonce len msg) s = .next a ∧ step s = .next a ∧
      Sys2Proof.core.run (len.toNat / 64 + 17) a = .next { s with
        inp := rest, out := s.out ++ 0x00 :: wordBytes tag
        x := none, t0 := none, nonce := none, len := none, msg := none, hist := none
        t := none, i := none } ∧
      workOfRun (len.toNat / 64 + 18) s =
        ⟨len.toNat / 64 + 17, 8 * (len.toNat / 64 + 4) + 110, 0⟩

/-- R161, R162, R165, R166, R186: a MAC without a Context, or with one and a short message, is
answered by its one byte and leaves a sound block as it was before the command; its work is one
micro-operation, no AES round and no key expansion. That the latches hold no value after an error
is the model's reading of R18 and R24 (log entry 6). -/
def Obligations.RejectedMacLeavesTheBlockAsItWas : Prop :=
  ∀ (s : State) (nonce : Word) (len : BitVec 64) (msg rest : List Byte),
    s.sound = true → s.phase = .idle → msg.length = len.toNat →
    s.inp = encodePacket (.mac nonce len msg) ++ rest →
    (s.ctxValid = false →
      Sys2Proof.core.run 2 s = .next { s with inp := rest, out := s.out ++ [0x02] } ∧
      workOfRun 2 s = ⟨1, 0, 0⟩) ∧
    (s.ctxValid = true → len.toNat < 192 →
      Sys2Proof.core.run 2 s = .next { s with inp := rest, out := s.out ++ [0x01] } ∧
      workOfRun 2 s = ⟨1, 0, 0⟩)

/-- R145, R186: each command, run step by step, is the command taken as one step, and its work is
the line of R186's table. The counts are those of the functions' own bodies (log entry 22): the
metered forms give the functions' values, an encryption and a truncated permutation taking 10 AES
rounds, an absorption round 8, a key expansion none. That the counters and the tap history hold no
value then is the model's reading of R24 (log entry 6). -/
def Obligations.CommandIsItsAtomicEffect : Prop :=
  (∀ (s : State) (i : Instr) (rest : List Byte), s.phase = .idle → s.fault = false →
    i.wf = true → i.onStream = true → s.inp = encodePacket i ++ rest →
    Sys2Proof.core.run (microOps i s.ctxValid + 1) s = .next (commandEffect i s) ∧
    workOfRun (microOps i s.ctxValid + 1) s = commandWork i s.ctxValid) ∧
  (∀ sched b, meteredEncrypt sched b = ⟨encrypt sched b, ⟨0, 10, 0⟩⟩) ∧
  (∀ w b, meteredPermuteTruncated w b = ⟨permuteTruncated w b, ⟨0, 10, 0⟩⟩) ∧
  (∀ p x m0 m1 m2 m3 tap, meteredAuRound p x m0 m1 m2 m3 tap =
    ⟨auRound p x m0 m1 m2 m3 tap, ⟨0, 8, 0⟩⟩) ∧
  (∀ key, meteredExpand key = ⟨expand key, ⟨0, 0, 1⟩⟩)

/-- R1, R146: DERIVE of a key, then MAC of a nonce and a message of at least 192 bytes, answer the
tag that key, nonce and message alone give, from every state that waits in IDLE with `FAULT` 0. -/
def Obligations.TagDependsOnKeyNonceMessageOnly : Prop :=
  ∀ (s : State) (key nonce : Word) (len : BitVec 64) (msg rest : List Byte),
    s.phase = .idle → s.fault = false → msg.length = len.toNat → 192 ≤ len.toNat →
    s.inp = encodePacket (.derive key) ++ (encodePacket (.mac nonce len msg) ++ rest) →
    ∃ tag t, macTag key nonce msg = .ok tag ∧
      Sys2Proof.core.run (len.toNat / 64 + 49) s = .next t ∧
      t.out = s.out ++ 0x00 :: 0x00 :: wordBytes tag ∧ t.inp = rest ∧ t.phase = .idle

/-- R148, R186: every run comes to rest: from a state in IDLE, within two steps for each byte of
`IN`, the block waits for the host, and a waiting block does not change. -/
def Obligations.EveryRunComesToRest : Prop :=
  (∀ s : State, s.phase = .idle →
    ∃ n t, n ≤ 2 * s.inp.length ∧ Sys2Proof.core.run n s = .next t ∧ t.waiting = true) ∧
  (∀ s : State, s.waiting = true → step s = .next s)

end
end

