-- ==== Sys2Proof/Laws/Bytes.lean ====
section
/-! SUPPORT. Words and their bytes, integers and their bytes: what each operation of
`Machine/Bytes.lean` gives. -/

namespace Sys2Proof.Machine

theorem beNat_lt (bs : List Byte) : beNat bs < 256 ^ bs.length := by
  induction bs with
  | nil => simp [beNat]
  | cons b bs ih =>
    have hb : b.toNat < 256 := b.isLt
    simp only [beNat, List.length_cons, pow_succ]
    nlinarith

/-- Byte `k` of a big-endian number, from the top. -/
theorem beNat_byte (bs : List Byte) (k : Nat) (hk : k < bs.length) :
    beNat bs / 256 ^ (bs.length - 1 - k) % 256 = bs[k].toNat := by
  induction bs generalizing k with
  | nil => simp at hk
  | cons b bs ih =>
    have hb : b.toNat < 256 := b.isLt
    have hlt := beNat_lt bs
    cases k with
    | zero =>
      simp only [beNat, List.length_cons, Nat.add_sub_cancel, Nat.sub_zero, List.getElem_cons_zero]
      rw [Nat.mul_comm, Nat.mul_add_div (by positivity), Nat.div_eq_of_lt hlt]
      omega
    | succ k =>
      have hk' : k < bs.length := by simpa using hk
      have hd : (b :: bs).length - 1 - (k + 1) = bs.length - 1 - k := by
        simp only [List.length_cons]; omega
      rw [hd, List.getElem_cons_succ, ← ih k hk', beNat]
      have hsplit : 256 ^ bs.length = 256 ^ (bs.length - 1 - k) * (256 * 256 ^ k) := by
        rw [← pow_succ', ← pow_add]; congr 1; omega
      rw [hsplit, show b.toNat * (256 ^ (bs.length - 1 - k) * (256 * 256 ^ k)) + beNat bs
        = 256 ^ (bs.length - 1 - k) * (256 * (b.toNat * 256 ^ k)) + beNat bs by ring,
        Nat.mul_add_div (by positivity)]
      omega

theorem byteAt_toNat (w : Word) (k : Nat) :
    (byteAt w k).toNat = w.toNat / 256 ^ (15 - k) % 256 := by
  rw [byteAt, BitVec.extractLsb'_toNat, Nat.shiftRight_eq_div_pow, pow_mul]
  norm_num

/-- The bytes of the word made from 16 bytes are those bytes. -/
theorem byteAt_wordOfBytes (bs : List Byte) (h : bs.length = 16) (k : Nat) (hk : k < 16) :
    byteAt (wordOfBytes bs) k = bs[k]'(by omega) := by
  apply BitVec.eq_of_toNat_eq
  have hlt := beNat_lt bs
  have hb := beNat_byte bs k (by omega)
  rw [h] at hlt
  rw [show bs.length - 1 - k = 15 - k by omega] at hb
  rw [byteAt_toNat, wordOfBytes, BitVec.toNat_ofNat, Nat.mod_eq_of_lt (b := 2 ^ 128) (by norm_num at hlt ⊢; exact hlt)]
  exact hb

@[simp] theorem wordBytes_length (w : Word) : (wordBytes w).length = 16 := by
  simp [wordBytes]

@[simp] theorem wordBytes_getElem (w : Word) (k : Nat) (hk : k < (wordBytes w).length) :
    (wordBytes w)[k] = byteAt w k := by
  simp [wordBytes]

/-- Two words with equal bytes are equal. -/
theorem word_ext (v w : Word) (h : ∀ k < 16, byteAt v k = byteAt w k) : v = w := by
  apply BitVec.eq_of_getLsbD_eq
  intro i hi
  have := congrArg (fun b : Byte => b.getLsbD (i % 8)) (h (15 - i / 8) (by omega))
  simp only [byteAt, BitVec.getLsbD_extractLsb'] at this
  have h8 : i % 8 < 8 := by omega
  rw [show 8 * (15 - (15 - i / 8)) + i % 8 = i by omega] at this
  simpa [h8] using this

theorem wordOfBytes_wordBytes (w : Word) : wordOfBytes (wordBytes w) = w := by
  refine word_ext _ _ fun k hk => ?_
  rw [byteAt_wordOfBytes _ (wordBytes_length w) k hk, wordBytes_getElem]

theorem wordBytes_wordOfBytes (bs : List Byte) (h : bs.length = 16) :
    wordBytes (wordOfBytes bs) = bs := by
  refine List.ext_getElem (by simp [h]) fun k h1 h2 => ?_
  rw [wordBytes_getElem, byteAt_wordOfBytes bs h k (by omega)]

theorem byteAt_xor (v w : Word) (k : Nat) : byteAt (v ^^^ w) k = byteAt v k ^^^ byteAt w k := by
  apply BitVec.eq_of_getLsbD_eq
  intro i hi
  simp [byteAt, hi]

@[simp] theorem leBytes_length (k n : Nat) : (leBytes k n).length = k := by
  induction k generalizing n with
  | zero => rfl
  | succ k ih => simp [leBytes, ih]

theorem leNat_lt (bs : List Byte) : leNat bs < 256 ^ bs.length := by
  induction bs with
  | nil => simp [leNat]
  | cons b bs ih =>
    have hb : b.toNat < 256 := b.isLt
    simp only [leNat, List.length_cons, pow_succ]
    omega

theorem leNat_leBytes (k n : Nat) : leNat (leBytes k n) = n % 256 ^ k := by
  induction k generalizing n with
  | zero => simp [leBytes, leNat, Nat.mod_one]
  | succ k ih =>
    rw [leBytes, leNat, ih, pow_succ', Nat.mod_mul, BitVec.toNat_ofNat]

theorem leBytes_leNat (bs : List Byte) : leBytes bs.length (leNat bs) = bs := by
  induction bs with
  | nil => rfl
  | cons b bs ih =>
    have hb : b.toNat < 256 := b.isLt
    simp only [List.length_cons, leBytes, leNat]
    rw [show (b.toNat + 256 * leNat bs) / 256 = leNat bs by omega, ih]
    congr 1
    apply BitVec.eq_of_toNat_eq
    rw [BitVec.toNat_ofNat]
    omega

/-- The eight bytes of a 64-bit length give it back (R33). -/
theorem leNat_leBytes_len (len : BitVec 64) : leNat (leBytes 8 len.toNat) = len.toNat := by
  rw [leNat_leBytes]
  exact Nat.mod_eq_of_lt len.isLt

end Sys2Proof.Machine
end

