-- ==== Sys2Proof/Laws/Cipher.lean ====
section
/-! SUPPORT. The pieces of a round, byte by byte. -/

namespace Sys2Proof.Machine

theorem byteAt_subBytes (w : Word) (k : Nat) (hk : k < 16) :
    byteAt (subBytes w) k = sbox (byteAt w k) := by
  rw [subBytes, byteAt_wordOfBytes _ (by simp) k hk]
  simp

theorem shiftSource_lt (k : Nat) : shiftSource k < 16 := by
  unfold shiftSource; omega

theorem byteAt_shiftRows (w : Word) (k : Nat) (hk : k < 16) :
    byteAt (shiftRows w) k = byteAt w (shiftSource k) := by
  rw [shiftRows, byteAt_wordOfBytes _ (by simp) k hk]
  simp

/-- The bytes of a word of four columns of four bytes. -/
theorem byteAt_columns (f : Nat → List Byte) (hf : ∀ c, (f c).length = 4) (k : Nat) (hk : k < 16) :
    byteAt (wordOfBytes ((List.range 4).flatMap f)) k =
      (f (k / 4))[k % 4]'(by rw [hf]; omega) := by
  have hl : ((List.range 4).flatMap f).length = 16 := by
    simp [List.range_succ, hf]
  rw [byteAt_wordOfBytes _ hl k hk]
  have hfm : (List.range 4).flatMap f = f 0 ++ (f 1 ++ (f 2 ++ f 3)) := by
    simp [List.range_succ]
  simp only [hfm, List.getElem_append, hf]
  have h0 := hf 0
  have h1 := hf 1
  have h2 := hf 2
  have h3 := hf 3
  interval_cases k <;> simp

theorem mixColumn_length (a0 a1 a2 a3 : Byte) : (mixColumn a0 a1 a2 a3).length = 4 := rfl

theorem byteAt_mixColumns (w : Word) (k : Nat) (hk : k < 16) :
    byteAt (mixColumns w) k =
      (mixColumn (byteAt w (4 * (k / 4))) (byteAt w (4 * (k / 4) + 1)) (byteAt w (4 * (k / 4) + 2))
        (byteAt w (4 * (k / 4) + 3)))[k % 4]'(by rw [mixColumn_length]; omega) := by
  rw [mixColumns]
  exact byteAt_columns _ (fun _ => mixColumn_length _ _ _ _) k hk

/-- `xtime` respects XOR: the field's addition (R70). -/
theorem xtime_xor (a b : Byte) : xtime (a ^^^ b) = xtime a ^^^ xtime b := by
  unfold xtime
  rw [BitVec.msb_xor]
  cases a.msb <;> cases b.msb <;>
    (simp only [Bool.xor_false, Bool.xor_true, Bool.not_true, Bool.not_false, if_true,
      Bool.false_eq_true, if_false]
     apply BitVec.eq_of_getLsbD_eq
     intro i hi
     interval_cases i <;> simp)

end Sys2Proof.Machine
end

