-- ==== Sys2Proof/Laws/Decode.lean ====
section
/-! SUPPORT. What the decoder can answer, said once. -/

namespace Sys2Proof

open Machine

/-- Everything a decoded packet can be, with the bytes it was read from (R51, R52, R55). -/
theorem decodePacket_cases {bs rest : List Byte} {i : Instr}
    (h : decodePacket bs = .ok (i, rest)) :
    (∃ tl, bs = 0x01 :: tl ∧ 16 ≤ tl.length ∧ i = .derive (wordOfBytes (tl.take 16)) ∧
      rest = tl.drop 16) ∨
    (∃ tl len, bs = 0x02 :: tl ∧ 24 + len.toNat ≤ tl.length ∧
      len = BitVec.ofNat 64 (leNat ((tl.drop 16).take 8)) ∧
      i = .mac (wordOfBytes (tl.take 16)) len ((tl.drop 24).take len.toNat) ∧
      rest = tl.drop (24 + len.toNat)) ∨
    (∃ b, bs = b :: rest ∧ b ≠ 0x01 ∧ b ≠ 0x02 ∧ i = .illegal b) := by
  cases bs with
  | nil => simp [decodePacket] at h
  | cons b tl =>
    simp only [decodePacket] at h
    split at h
    · split at h
      · cases h
      · rename_i hb hl
        simp only [Except.ok.injEq, Prod.mk.injEq] at h
        exact .inl ⟨tl, by rw [hb], by omega, h.1.symm, h.2.symm⟩
    · split at h
      · split at h
        · cases h
        · split at h
          · cases h
          · rename_i hb _ hl
            simp only [Except.ok.injEq, Prod.mk.injEq] at h
            exact .inr (.inl ⟨tl, _, by rw [hb], by omega, rfl, h.1.symm, h.2.symm⟩)
      · rename_i h1 h2
        simp only [Except.ok.injEq, Prod.mk.injEq] at h
        exact .inr (.inr ⟨b, by rw [h.2], h1, h2, h.1.symm⟩)

/-- A decoded packet is a row of the stream: never a code of `PHASE` (R56). -/
theorem decodePacket_onStream {bs rest : List Byte} {i : Instr}
    (h : decodePacket bs = .ok (i, rest)) : i.onStream = true := by
  obtain ⟨_, _, _, rfl, _⟩ | ⟨_, _, _, _, _, rfl, _⟩ | ⟨_, _, _, _, rfl⟩ := decodePacket_cases h <;>
    rfl

/-- The bytes after a packet are those past its length (R51, R52, R53). -/
theorem decodePacket_rest {bs rest : List Byte} {i : Instr}
    (h : decodePacket bs = .ok (i, rest)) :
    rest = bs.drop (packetLength i) ∧ packetLength i ≤ bs.length := by
  obtain ⟨tl, rfl, hl, rfl, rfl⟩ | ⟨tl, len, rfl, hl, _, rfl, rfl⟩ | ⟨b, rfl, _, _, rfl⟩ :=
    decodePacket_cases h
  · simp [packetLength]; omega
  · simp only [packetLength, List.length_cons]
    rw [show 25 + len.toNat = (24 + len.toNat) + 1 by omega]
    simp; omega
  · simp [packetLength]

/-- The code of a phase reads back as that phase (R56). -/
@[simp] theorem phaseOfCode_phaseCode (p : Phase) : phaseOfCode (phaseCode p) = some p := by
  cases p <;> rfl

@[simp] theorem encodeDerive_length (key : Word) : (encodeDerive key).length = 17 := by
  simp [encodeDerive]

@[simp] theorem encodeMac_length (nonce : Word) (len : BitVec 64) (msg : List Byte) :
    (encodeMac nonce len msg).length = 25 + msg.length := by
  simp [encodeMac]; omega

end Sys2Proof
end

