-- ==== Sys2Proof/Laws/State.lean ====
section
/-! SUPPORT. One lemma per field per update of the state: what the update leaves in the field. -/

namespace Sys2Proof.Machine

variable (s : State)

@[simp] theorem setCtxValid_ctxInit : (s.setCtxValid).ctxInit = s.ctxInit := rfl
@[simp] theorem setCtxValid_ctxPool : (s.setCtxValid).ctxPool = s.ctxPool := rfl
@[simp] theorem setCtxValid_ctxFk1 : (s.setCtxValid).ctxFk1 = s.ctxFk1 := rfl
@[simp] theorem setCtxValid_ctxFk2 : (s.setCtxValid).ctxFk2 = s.ctxFk2 := rfl
@[simp] theorem setCtxValid_ctxValid : (s.setCtxValid).ctxValid = true := rfl
@[simp] theorem setCtxValid_fault : (s.setCtxValid).fault = s.fault := rfl
@[simp] theorem setCtxValid_inp : (s.setCtxValid).inp = s.inp := rfl
@[simp] theorem setCtxValid_out : (s.setCtxValid).out = s.out := rfl
@[simp] theorem setCtxValid_x : (s.setCtxValid).x = s.x := rfl
@[simp] theorem setCtxValid_t0 : (s.setCtxValid).t0 = s.t0 := rfl
@[simp] theorem setCtxValid_ki : (s.setCtxValid).ki = s.ki := rfl
@[simp] theorem setCtxValid_key : (s.setCtxValid).key = s.key := rfl
@[simp] theorem setCtxValid_nonce : (s.setCtxValid).nonce = s.nonce := rfl
@[simp] theorem setCtxValid_len : (s.setCtxValid).len = s.len := rfl
@[simp] theorem setCtxValid_msg : (s.setCtxValid).msg = s.msg := rfl
@[simp] theorem setCtxValid_phase : (s.setCtxValid).phase = s.phase := rfl
@[simp] theorem setCtxValid_t : (s.setCtxValid).t = s.t := rfl
@[simp] theorem setCtxValid_c : (s.setCtxValid).c = s.c := rfl
@[simp] theorem setCtxValid_i : (s.setCtxValid).i = s.i := rfl
@[simp] theorem setCtxValid_hist : (s.setCtxValid).hist = s.hist := rfl

@[simp] theorem setFault_ctxInit : (s.setFault).ctxInit = s.ctxInit := rfl
@[simp] theorem setFault_ctxPool : (s.setFault).ctxPool = s.ctxPool := rfl
@[simp] theorem setFault_ctxFk1 : (s.setFault).ctxFk1 = s.ctxFk1 := rfl
@[simp] theorem setFault_ctxFk2 : (s.setFault).ctxFk2 = s.ctxFk2 := rfl
@[simp] theorem setFault_ctxValid : (s.setFault).ctxValid = s.ctxValid := rfl
@[simp] theorem setFault_fault : (s.setFault).fault = true := rfl
@[simp] theorem setFault_inp : (s.setFault).inp = s.inp := rfl
@[simp] theorem setFault_out : (s.setFault).out = s.out := rfl
@[simp] theorem setFault_x : (s.setFault).x = s.x := rfl
@[simp] theorem setFault_t0 : (s.setFault).t0 = s.t0 := rfl
@[simp] theorem setFault_ki : (s.setFault).ki = s.ki := rfl
@[simp] theorem setFault_key : (s.setFault).key = s.key := rfl
@[simp] theorem setFault_nonce : (s.setFault).nonce = s.nonce := rfl
@[simp] theorem setFault_len : (s.setFault).len = s.len := rfl
@[simp] theorem setFault_msg : (s.setFault).msg = s.msg := rfl
@[simp] theorem setFault_phase : (s.setFault).phase = s.phase := rfl
@[simp] theorem setFault_t : (s.setFault).t = s.t := rfl
@[simp] theorem setFault_c : (s.setFault).c = s.c := rfl
@[simp] theorem setFault_i : (s.setFault).i = s.i := rfl
@[simp] theorem setFault_hist : (s.setFault).hist = s.hist := rfl

@[simp] theorem emit_ctxInit (bs : List Byte) : (s.emit bs).ctxInit = s.ctxInit := rfl
@[simp] theorem emit_ctxPool (bs : List Byte) : (s.emit bs).ctxPool = s.ctxPool := rfl
@[simp] theorem emit_ctxFk1 (bs : List Byte) : (s.emit bs).ctxFk1 = s.ctxFk1 := rfl
@[simp] theorem emit_ctxFk2 (bs : List Byte) : (s.emit bs).ctxFk2 = s.ctxFk2 := rfl
@[simp] theorem emit_ctxValid (bs : List Byte) : (s.emit bs).ctxValid = s.ctxValid := rfl
@[simp] theorem emit_fault (bs : List Byte) : (s.emit bs).fault = s.fault := rfl
@[simp] theorem emit_inp (bs : List Byte) : (s.emit bs).inp = s.inp := rfl
@[simp] theorem emit_out (bs : List Byte) : (s.emit bs).out = s.out ++ bs := rfl
@[simp] theorem emit_x (bs : List Byte) : (s.emit bs).x = s.x := rfl
@[simp] theorem emit_t0 (bs : List Byte) : (s.emit bs).t0 = s.t0 := rfl
@[simp] theorem emit_ki (bs : List Byte) : (s.emit bs).ki = s.ki := rfl
@[simp] theorem emit_key (bs : List Byte) : (s.emit bs).key = s.key := rfl
@[simp] theorem emit_nonce (bs : List Byte) : (s.emit bs).nonce = s.nonce := rfl
@[simp] theorem emit_len (bs : List Byte) : (s.emit bs).len = s.len := rfl
@[simp] theorem emit_msg (bs : List Byte) : (s.emit bs).msg = s.msg := rfl
@[simp] theorem emit_phase (bs : List Byte) : (s.emit bs).phase = s.phase := rfl
@[simp] theorem emit_t (bs : List Byte) : (s.emit bs).t = s.t := rfl
@[simp] theorem emit_c (bs : List Byte) : (s.emit bs).c = s.c := rfl
@[simp] theorem emit_i (bs : List Byte) : (s.emit bs).i = s.i := rfl
@[simp] theorem emit_hist (bs : List Byte) : (s.emit bs).hist = s.hist := rfl

@[simp] theorem consume_ctxInit (n : Nat) : (s.consume n).ctxInit = s.ctxInit := rfl
@[simp] theorem consume_ctxPool (n : Nat) : (s.consume n).ctxPool = s.ctxPool := rfl
@[simp] theorem consume_ctxFk1 (n : Nat) : (s.consume n).ctxFk1 = s.ctxFk1 := rfl
@[simp] theorem consume_ctxFk2 (n : Nat) : (s.consume n).ctxFk2 = s.ctxFk2 := rfl
@[simp] theorem consume_ctxValid (n : Nat) : (s.consume n).ctxValid = s.ctxValid := rfl
@[simp] theorem consume_fault (n : Nat) : (s.consume n).fault = s.fault := rfl
@[simp] theorem consume_inp (n : Nat) : (s.consume n).inp = s.inp.drop n := rfl
@[simp] theorem consume_out (n : Nat) : (s.consume n).out = s.out := rfl
@[simp] theorem consume_x (n : Nat) : (s.consume n).x = s.x := rfl
@[simp] theorem consume_t0 (n : Nat) : (s.consume n).t0 = s.t0 := rfl
@[simp] theorem consume_ki (n : Nat) : (s.consume n).ki = s.ki := rfl
@[simp] theorem consume_key (n : Nat) : (s.consume n).key = s.key := rfl
@[simp] theorem consume_nonce (n : Nat) : (s.consume n).nonce = s.nonce := rfl
@[simp] theorem consume_len (n : Nat) : (s.consume n).len = s.len := rfl
@[simp] theorem consume_msg (n : Nat) : (s.consume n).msg = s.msg := rfl
@[simp] theorem consume_phase (n : Nat) : (s.consume n).phase = s.phase := rfl
@[simp] theorem consume_t (n : Nat) : (s.consume n).t = s.t := rfl
@[simp] theorem consume_c (n : Nat) : (s.consume n).c = s.c := rfl
@[simp] theorem consume_i (n : Nat) : (s.consume n).i = s.i := rfl
@[simp] theorem consume_hist (n : Nat) : (s.consume n).hist = s.hist := rfl

@[simp] theorem writeInit_ctxInit (k : Nat) (w : Word) :
    (s.writeInit k w).ctxInit = s.ctxInit.setIfInBounds k (some w) := rfl
@[simp] theorem writeInit_ctxPool (k : Nat) (w : Word) :
    (s.writeInit k w).ctxPool = s.ctxPool := rfl
@[simp] theorem writeInit_ctxFk1 (k : Nat) (w : Word) : (s.writeInit k w).ctxFk1 = s.ctxFk1 := rfl
@[simp] theorem writeInit_ctxFk2 (k : Nat) (w : Word) : (s.writeInit k w).ctxFk2 = s.ctxFk2 := rfl
@[simp] theorem writeInit_ctxValid (k : Nat) (w : Word) :
    (s.writeInit k w).ctxValid = s.ctxValid := rfl
@[simp] theorem writeInit_fault (k : Nat) (w : Word) : (s.writeInit k w).fault = s.fault := rfl
@[simp] theorem writeInit_inp (k : Nat) (w : Word) : (s.writeInit k w).inp = s.inp := rfl
@[simp] theorem writeInit_out (k : Nat) (w : Word) : (s.writeInit k w).out = s.out := rfl
@[simp] theorem writeInit_x (k : Nat) (w : Word) : (s.writeInit k w).x = s.x := rfl
@[simp] theorem writeInit_t0 (k : Nat) (w : Word) : (s.writeInit k w).t0 = s.t0 := rfl
@[simp] theorem writeInit_ki (k : Nat) (w : Word) : (s.writeInit k w).ki = s.ki := rfl
@[simp] theorem writeInit_key (k : Nat) (w : Word) : (s.writeInit k w).key = s.key := rfl
@[simp] theorem writeInit_nonce (k : Nat) (w : Word) : (s.writeInit k w).nonce = s.nonce := rfl
@[simp] theorem writeInit_len (k : Nat) (w : Word) : (s.writeInit k w).len = s.len := rfl
@[simp] theorem writeInit_msg (k : Nat) (w : Word) : (s.writeInit k w).msg = s.msg := rfl
@[simp] theorem writeInit_phase (k : Nat) (w : Word) : (s.writeInit k w).phase = s.phase := rfl
@[simp] theorem writeInit_t (k : Nat) (w : Word) : (s.writeInit k w).t = s.t := rfl
@[simp] theorem writeInit_c (k : Nat) (w : Word) : (s.writeInit k w).c = s.c := rfl
@[simp] theorem writeInit_i (k : Nat) (w : Word) : (s.writeInit k w).i = s.i := rfl
@[simp] theorem writeInit_hist (k : Nat) (w : Word) : (s.writeInit k w).hist = s.hist := rfl

@[simp] theorem writePool_ctxInit (k : Nat) (w : Word) :
    (s.writePool k w).ctxInit = s.ctxInit := rfl
@[simp] theorem writePool_ctxPool (k : Nat) (w : Word) :
    (s.writePool k w).ctxPool = if 9 ≤ k then s.ctxPool.setIfInBounds (k - 9) (some w) else s.ctxPool := rfl
@[simp] theorem writePool_ctxFk1 (k : Nat) (w : Word) : (s.writePool k w).ctxFk1 = s.ctxFk1 := rfl
@[simp] theorem writePool_ctxFk2 (k : Nat) (w : Word) : (s.writePool k w).ctxFk2 = s.ctxFk2 := rfl
@[simp] theorem writePool_ctxValid (k : Nat) (w : Word) :
    (s.writePool k w).ctxValid = s.ctxValid := rfl
@[simp] theorem writePool_fault (k : Nat) (w : Word) : (s.writePool k w).fault = s.fault := rfl
@[simp] theorem writePool_inp (k : Nat) (w : Word) : (s.writePool k w).inp = s.inp := rfl
@[simp] theorem writePool_out (k : Nat) (w : Word) : (s.writePool k w).out = s.out := rfl
@[simp] theorem writePool_x (k : Nat) (w : Word) : (s.writePool k w).x = s.x := rfl
@[simp] theorem writePool_t0 (k : Nat) (w : Word) : (s.writePool k w).t0 = s.t0 := rfl
@[simp] theorem writePool_ki (k : Nat) (w : Word) : (s.writePool k w).ki = s.ki := rfl
@[simp] theorem writePool_key (k : Nat) (w : Word) : (s.writePool k w).key = s.key := rfl
@[simp] theorem writePool_nonce (k : Nat) (w : Word) : (s.writePool k w).nonce = s.nonce := rfl
@[simp] theorem writePool_len (k : Nat) (w : Word) : (s.writePool k w).len = s.len := rfl
@[simp] theorem writePool_msg (k : Nat) (w : Word) : (s.writePool k w).msg = s.msg := rfl
@[simp] theorem writePool_phase (k : Nat) (w : Word) : (s.writePool k w).phase = s.phase := rfl
@[simp] theorem writePool_t (k : Nat) (w : Word) : (s.writePool k w).t = s.t := rfl
@[simp] theorem writePool_c (k : Nat) (w : Word) : (s.writePool k w).c = s.c := rfl
@[simp] theorem writePool_i (k : Nat) (w : Word) : (s.writePool k w).i = s.i := rfl
@[simp] theorem writePool_hist (k : Nat) (w : Word) : (s.writePool k w).hist = s.hist := rfl

@[simp] theorem writeFk1_ctxInit (v : Vector Word 11) : (s.writeFk1 v).ctxInit = s.ctxInit := rfl
@[simp] theorem writeFk1_ctxPool (v : Vector Word 11) : (s.writeFk1 v).ctxPool = s.ctxPool := rfl
@[simp] theorem writeFk1_ctxFk1 (v : Vector Word 11) : (s.writeFk1 v).ctxFk1 = some v := rfl
@[simp] theorem writeFk1_ctxFk2 (v : Vector Word 11) : (s.writeFk1 v).ctxFk2 = s.ctxFk2 := rfl
@[simp] theorem writeFk1_ctxValid (v : Vector Word 11) : (s.writeFk1 v).ctxValid = s.ctxValid := rfl
@[simp] theorem writeFk1_fault (v : Vector Word 11) : (s.writeFk1 v).fault = s.fault := rfl
@[simp] theorem writeFk1_inp (v : Vector Word 11) : (s.writeFk1 v).inp = s.inp := rfl
@[simp] theorem writeFk1_out (v : Vector Word 11) : (s.writeFk1 v).out = s.out := rfl
@[simp] theorem writeFk1_x (v : Vector Word 11) : (s.writeFk1 v).x = s.x := rfl
@[simp] theorem writeFk1_t0 (v : Vector Word 11) : (s.writeFk1 v).t0 = s.t0 := rfl
@[simp] theorem writeFk1_ki (v : Vector Word 11) : (s.writeFk1 v).ki = s.ki := rfl
@[simp] theorem writeFk1_key (v : Vector Word 11) : (s.writeFk1 v).key = s.key := rfl
@[simp] theorem writeFk1_nonce (v : Vector Word 11) : (s.writeFk1 v).nonce = s.nonce := rfl
@[simp] theorem writeFk1_len (v : Vector Word 11) : (s.writeFk1 v).len = s.len := rfl
@[simp] theorem writeFk1_msg (v : Vector Word 11) : (s.writeFk1 v).msg = s.msg := rfl
@[simp] theorem writeFk1_phase (v : Vector Word 11) : (s.writeFk1 v).phase = s.phase := rfl
@[simp] theorem writeFk1_t (v : Vector Word 11) : (s.writeFk1 v).t = s.t := rfl
@[simp] theorem writeFk1_c (v : Vector Word 11) : (s.writeFk1 v).c = s.c := rfl
@[simp] theorem writeFk1_i (v : Vector Word 11) : (s.writeFk1 v).i = s.i := rfl
@[simp] theorem writeFk1_hist (v : Vector Word 11) : (s.writeFk1 v).hist = s.hist := rfl

@[simp] theorem writeFk2_ctxInit (v : Vector Word 11) : (s.writeFk2 v).ctxInit = s.ctxInit := rfl
@[simp] theorem writeFk2_ctxPool (v : Vector Word 11) : (s.writeFk2 v).ctxPool = s.ctxPool := rfl
@[simp] theorem writeFk2_ctxFk1 (v : Vector Word 11) : (s.writeFk2 v).ctxFk1 = s.ctxFk1 := rfl
@[simp] theorem writeFk2_ctxFk2 (v : Vector Word 11) : (s.writeFk2 v).ctxFk2 = some v := rfl
@[simp] theorem writeFk2_ctxValid (v : Vector Word 11) : (s.writeFk2 v).ctxValid = s.ctxValid := rfl
@[simp] theorem writeFk2_fault (v : Vector Word 11) : (s.writeFk2 v).fault = s.fault := rfl
@[simp] theorem writeFk2_inp (v : Vector Word 11) : (s.writeFk2 v).inp = s.inp := rfl
@[simp] theorem writeFk2_out (v : Vector Word 11) : (s.writeFk2 v).out = s.out := rfl
@[simp] theorem writeFk2_x (v : Vector Word 11) : (s.writeFk2 v).x = s.x := rfl
@[simp] theorem writeFk2_t0 (v : Vector Word 11) : (s.writeFk2 v).t0 = s.t0 := rfl
@[simp] theorem writeFk2_ki (v : Vector Word 11) : (s.writeFk2 v).ki = s.ki := rfl
@[simp] theorem writeFk2_key (v : Vector Word 11) : (s.writeFk2 v).key = s.key := rfl
@[simp] theorem writeFk2_nonce (v : Vector Word 11) : (s.writeFk2 v).nonce = s.nonce := rfl
@[simp] theorem writeFk2_len (v : Vector Word 11) : (s.writeFk2 v).len = s.len := rfl
@[simp] theorem writeFk2_msg (v : Vector Word 11) : (s.writeFk2 v).msg = s.msg := rfl
@[simp] theorem writeFk2_phase (v : Vector Word 11) : (s.writeFk2 v).phase = s.phase := rfl
@[simp] theorem writeFk2_t (v : Vector Word 11) : (s.writeFk2 v).t = s.t := rfl
@[simp] theorem writeFk2_c (v : Vector Word 11) : (s.writeFk2 v).c = s.c := rfl
@[simp] theorem writeFk2_i (v : Vector Word 11) : (s.writeFk2 v).i = s.i := rfl
@[simp] theorem writeFk2_hist (v : Vector Word 11) : (s.writeFk2 v).hist = s.hist := rfl

@[simp] theorem writeX_ctxInit (v : Vector Word 9) : (s.writeX v).ctxInit = s.ctxInit := rfl
@[simp] theorem writeX_ctxPool (v : Vector Word 9) : (s.writeX v).ctxPool = s.ctxPool := rfl
@[simp] theorem writeX_ctxFk1 (v : Vector Word 9) : (s.writeX v).ctxFk1 = s.ctxFk1 := rfl
@[simp] theorem writeX_ctxFk2 (v : Vector Word 9) : (s.writeX v).ctxFk2 = s.ctxFk2 := rfl
@[simp] theorem writeX_ctxValid (v : Vector Word 9) : (s.writeX v).ctxValid = s.ctxValid := rfl
@[simp] theorem writeX_fault (v : Vector Word 9) : (s.writeX v).fault = s.fault := rfl
@[simp] theorem writeX_inp (v : Vector Word 9) : (s.writeX v).inp = s.inp := rfl
@[simp] theorem writeX_out (v : Vector Word 9) : (s.writeX v).out = s.out := rfl
@[simp] theorem writeX_x (v : Vector Word 9) : (s.writeX v).x = some v := rfl
@[simp] theorem writeX_t0 (v : Vector Word 9) : (s.writeX v).t0 = s.t0 := rfl
@[simp] theorem writeX_ki (v : Vector Word 9) : (s.writeX v).ki = s.ki := rfl
@[simp] theorem writeX_key (v : Vector Word 9) : (s.writeX v).key = s.key := rfl
@[simp] theorem writeX_nonce (v : Vector Word 9) : (s.writeX v).nonce = s.nonce := rfl
@[simp] theorem writeX_len (v : Vector Word 9) : (s.writeX v).len = s.len := rfl
@[simp] theorem writeX_msg (v : Vector Word 9) : (s.writeX v).msg = s.msg := rfl
@[simp] theorem writeX_phase (v : Vector Word 9) : (s.writeX v).phase = s.phase := rfl
@[simp] theorem writeX_t (v : Vector Word 9) : (s.writeX v).t = s.t := rfl
@[simp] theorem writeX_c (v : Vector Word 9) : (s.writeX v).c = s.c := rfl
@[simp] theorem writeX_i (v : Vector Word 9) : (s.writeX v).i = s.i := rfl
@[simp] theorem writeX_hist (v : Vector Word 9) : (s.writeX v).hist = s.hist := rfl

@[simp] theorem writeT0_ctxInit (w : Word) : (s.writeT0 w).ctxInit = s.ctxInit := rfl
@[simp] theorem writeT0_ctxPool (w : Word) : (s.writeT0 w).ctxPool = s.ctxPool := rfl
@[simp] theorem writeT0_ctxFk1 (w : Word) : (s.writeT0 w).ctxFk1 = s.ctxFk1 := rfl
@[simp] theorem writeT0_ctxFk2 (w : Word) : (s.writeT0 w).ctxFk2 = s.ctxFk2 := rfl
@[simp] theorem writeT0_ctxValid (w : Word) : (s.writeT0 w).ctxValid = s.ctxValid := rfl
@[simp] theorem writeT0_fault (w : Word) : (s.writeT0 w).fault = s.fault := rfl
@[simp] theorem writeT0_inp (w : Word) : (s.writeT0 w).inp = s.inp := rfl
@[simp] theorem writeT0_out (w : Word) : (s.writeT0 w).out = s.out := rfl
@[simp] theorem writeT0_x (w : Word) : (s.writeT0 w).x = s.x := rfl
@[simp] theorem writeT0_t0 (w : Word) : (s.writeT0 w).t0 = some w := rfl
@[simp] theorem writeT0_ki (w : Word) : (s.writeT0 w).ki = s.ki := rfl
@[simp] theorem writeT0_key (w : Word) : (s.writeT0 w).key = s.key := rfl
@[simp] theorem writeT0_nonce (w : Word) : (s.writeT0 w).nonce = s.nonce := rfl
@[simp] theorem writeT0_len (w : Word) : (s.writeT0 w).len = s.len := rfl
@[simp] theorem writeT0_msg (w : Word) : (s.writeT0 w).msg = s.msg := rfl
@[simp] theorem writeT0_phase (w : Word) : (s.writeT0 w).phase = s.phase := rfl
@[simp] theorem writeT0_t (w : Word) : (s.writeT0 w).t = s.t := rfl
@[simp] theorem writeT0_c (w : Word) : (s.writeT0 w).c = s.c := rfl
@[simp] theorem writeT0_i (w : Word) : (s.writeT0 w).i = s.i := rfl
@[simp] theorem writeT0_hist (w : Word) : (s.writeT0 w).hist = s.hist := rfl

@[simp] theorem writeKi_ctxInit (v : Vector Word 11) : (s.writeKi v).ctxInit = s.ctxInit := rfl
@[simp] theorem writeKi_ctxPool (v : Vector Word 11) : (s.writeKi v).ctxPool = s.ctxPool := rfl
@[simp] theorem writeKi_ctxFk1 (v : Vector Word 11) : (s.writeKi v).ctxFk1 = s.ctxFk1 := rfl
@[simp] theorem writeKi_ctxFk2 (v : Vector Word 11) : (s.writeKi v).ctxFk2 = s.ctxFk2 := rfl
@[simp] theorem writeKi_ctxValid (v : Vector Word 11) : (s.writeKi v).ctxValid = s.ctxValid := rfl
@[simp] theorem writeKi_fault (v : Vector Word 11) : (s.writeKi v).fault = s.fault := rfl
@[simp] theorem writeKi_inp (v : Vector Word 11) : (s.writeKi v).inp = s.inp := rfl
@[simp] theorem writeKi_out (v : Vector Word 11) : (s.writeKi v).out = s.out := rfl
@[simp] theorem writeKi_x (v : Vector Word 11) : (s.writeKi v).x = s.x := rfl
@[simp] theorem writeKi_t0 (v : Vector Word 11) : (s.writeKi v).t0 = s.t0 := rfl
@[simp] theorem writeKi_ki (v : Vector Word 11) : (s.writeKi v).ki = some v := rfl
@[simp] theorem writeKi_key (v : Vector Word 11) : (s.writeKi v).key = s.key := rfl
@[simp] theorem writeKi_nonce (v : Vector Word 11) : (s.writeKi v).nonce = s.nonce := rfl
@[simp] theorem writeKi_len (v : Vector Word 11) : (s.writeKi v).len = s.len := rfl
@[simp] theorem writeKi_msg (v : Vector Word 11) : (s.writeKi v).msg = s.msg := rfl
@[simp] theorem writeKi_phase (v : Vector Word 11) : (s.writeKi v).phase = s.phase := rfl
@[simp] theorem writeKi_t (v : Vector Word 11) : (s.writeKi v).t = s.t := rfl
@[simp] theorem writeKi_c (v : Vector Word 11) : (s.writeKi v).c = s.c := rfl
@[simp] theorem writeKi_i (v : Vector Word 11) : (s.writeKi v).i = s.i := rfl
@[simp] theorem writeKi_hist (v : Vector Word 11) : (s.writeKi v).hist = s.hist := rfl

@[simp] theorem writeHist_ctxInit (v : Vector Word 10) : (s.writeHist v).ctxInit = s.ctxInit := rfl
@[simp] theorem writeHist_ctxPool (v : Vector Word 10) : (s.writeHist v).ctxPool = s.ctxPool := rfl
@[simp] theorem writeHist_ctxFk1 (v : Vector Word 10) : (s.writeHist v).ctxFk1 = s.ctxFk1 := rfl
@[simp] theorem writeHist_ctxFk2 (v : Vector Word 10) : (s.writeHist v).ctxFk2 = s.ctxFk2 := rfl
@[simp] theorem writeHist_ctxValid (v : Vector Word 10) :
    (s.writeHist v).ctxValid = s.ctxValid := rfl
@[simp] theorem writeHist_fault (v : Vector Word 10) : (s.writeHist v).fault = s.fault := rfl
@[simp] theorem writeHist_inp (v : Vector Word 10) : (s.writeHist v).inp = s.inp := rfl
@[simp] theorem writeHist_out (v : Vector Word 10) : (s.writeHist v).out = s.out := rfl
@[simp] theorem writeHist_x (v : Vector Word 10) : (s.writeHist v).x = s.x := rfl
@[simp] theorem writeHist_t0 (v : Vector Word 10) : (s.writeHist v).t0 = s.t0 := rfl
@[simp] theorem writeHist_ki (v : Vector Word 10) : (s.writeHist v).ki = s.ki := rfl
@[simp] theorem writeHist_key (v : Vector Word 10) : (s.writeHist v).key = s.key := rfl
@[simp] theorem writeHist_nonce (v : Vector Word 10) : (s.writeHist v).nonce = s.nonce := rfl
@[simp] theorem writeHist_len (v : Vector Word 10) : (s.writeHist v).len = s.len := rfl
@[simp] theorem writeHist_msg (v : Vector Word 10) : (s.writeHist v).msg = s.msg := rfl
@[simp] theorem writeHist_phase (v : Vector Word 10) : (s.writeHist v).phase = s.phase := rfl
@[simp] theorem writeHist_t (v : Vector Word 10) : (s.writeHist v).t = s.t := rfl
@[simp] theorem writeHist_c (v : Vector Word 10) : (s.writeHist v).c = s.c := rfl
@[simp] theorem writeHist_i (v : Vector Word 10) : (s.writeHist v).i = s.i := rfl
@[simp] theorem writeHist_hist (v : Vector Word 10) : (s.writeHist v).hist = some v := rfl

@[simp] theorem setPhase_ctxInit (p : Phase) : (s.setPhase p).ctxInit = s.ctxInit := rfl
@[simp] theorem setPhase_ctxPool (p : Phase) : (s.setPhase p).ctxPool = s.ctxPool := rfl
@[simp] theorem setPhase_ctxFk1 (p : Phase) : (s.setPhase p).ctxFk1 = s.ctxFk1 := rfl
@[simp] theorem setPhase_ctxFk2 (p : Phase) : (s.setPhase p).ctxFk2 = s.ctxFk2 := rfl
@[simp] theorem setPhase_ctxValid (p : Phase) : (s.setPhase p).ctxValid = s.ctxValid := rfl
@[simp] theorem setPhase_fault (p : Phase) : (s.setPhase p).fault = s.fault := rfl
@[simp] theorem setPhase_inp (p : Phase) : (s.setPhase p).inp = s.inp := rfl
@[simp] theorem setPhase_out (p : Phase) : (s.setPhase p).out = s.out := rfl
@[simp] theorem setPhase_x (p : Phase) : (s.setPhase p).x = s.x := rfl
@[simp] theorem setPhase_t0 (p : Phase) : (s.setPhase p).t0 = s.t0 := rfl
@[simp] theorem setPhase_ki (p : Phase) : (s.setPhase p).ki = s.ki := rfl
@[simp] theorem setPhase_key (p : Phase) : (s.setPhase p).key = s.key := rfl
@[simp] theorem setPhase_nonce (p : Phase) : (s.setPhase p).nonce = s.nonce := rfl
@[simp] theorem setPhase_len (p : Phase) : (s.setPhase p).len = s.len := rfl
@[simp] theorem setPhase_msg (p : Phase) : (s.setPhase p).msg = s.msg := rfl
@[simp] theorem setPhase_phase (p : Phase) : (s.setPhase p).phase = p := rfl
@[simp] theorem setPhase_t (p : Phase) : (s.setPhase p).t = s.t := rfl
@[simp] theorem setPhase_c (p : Phase) : (s.setPhase p).c = s.c := rfl
@[simp] theorem setPhase_i (p : Phase) : (s.setPhase p).i = s.i := rfl
@[simp] theorem setPhase_hist (p : Phase) : (s.setPhase p).hist = s.hist := rfl

@[simp] theorem setT_ctxInit (n : Nat) : (s.setT n).ctxInit = s.ctxInit := rfl
@[simp] theorem setT_ctxPool (n : Nat) : (s.setT n).ctxPool = s.ctxPool := rfl
@[simp] theorem setT_ctxFk1 (n : Nat) : (s.setT n).ctxFk1 = s.ctxFk1 := rfl
@[simp] theorem setT_ctxFk2 (n : Nat) : (s.setT n).ctxFk2 = s.ctxFk2 := rfl
@[simp] theorem setT_ctxValid (n : Nat) : (s.setT n).ctxValid = s.ctxValid := rfl
@[simp] theorem setT_fault (n : Nat) : (s.setT n).fault = s.fault := rfl
@[simp] theorem setT_inp (n : Nat) : (s.setT n).inp = s.inp := rfl
@[simp] theorem setT_out (n : Nat) : (s.setT n).out = s.out := rfl
@[simp] theorem setT_x (n : Nat) : (s.setT n).x = s.x := rfl
@[simp] theorem setT_t0 (n : Nat) : (s.setT n).t0 = s.t0 := rfl
@[simp] theorem setT_ki (n : Nat) : (s.setT n).ki = s.ki := rfl
@[simp] theorem setT_key (n : Nat) : (s.setT n).key = s.key := rfl
@[simp] theorem setT_nonce (n : Nat) : (s.setT n).nonce = s.nonce := rfl
@[simp] theorem setT_len (n : Nat) : (s.setT n).len = s.len := rfl
@[simp] theorem setT_msg (n : Nat) : (s.setT n).msg = s.msg := rfl
@[simp] theorem setT_phase (n : Nat) : (s.setT n).phase = s.phase := rfl
@[simp] theorem setT_t (n : Nat) : (s.setT n).t = some n := rfl
@[simp] theorem setT_c (n : Nat) : (s.setT n).c = s.c := rfl
@[simp] theorem setT_i (n : Nat) : (s.setT n).i = s.i := rfl
@[simp] theorem setT_hist (n : Nat) : (s.setT n).hist = s.hist := rfl

@[simp] theorem setC_ctxInit (n : Nat) : (s.setC n).ctxInit = s.ctxInit := rfl
@[simp] theorem setC_ctxPool (n : Nat) : (s.setC n).ctxPool = s.ctxPool := rfl
@[simp] theorem setC_ctxFk1 (n : Nat) : (s.setC n).ctxFk1 = s.ctxFk1 := rfl
@[simp] theorem setC_ctxFk2 (n : Nat) : (s.setC n).ctxFk2 = s.ctxFk2 := rfl
@[simp] theorem setC_ctxValid (n : Nat) : (s.setC n).ctxValid = s.ctxValid := rfl
@[simp] theorem setC_fault (n : Nat) : (s.setC n).fault = s.fault := rfl
@[simp] theorem setC_inp (n : Nat) : (s.setC n).inp = s.inp := rfl
@[simp] theorem setC_out (n : Nat) : (s.setC n).out = s.out := rfl
@[simp] theorem setC_x (n : Nat) : (s.setC n).x = s.x := rfl
@[simp] theorem setC_t0 (n : Nat) : (s.setC n).t0 = s.t0 := rfl
@[simp] theorem setC_ki (n : Nat) : (s.setC n).ki = s.ki := rfl
@[simp] theorem setC_key (n : Nat) : (s.setC n).key = s.key := rfl
@[simp] theorem setC_nonce (n : Nat) : (s.setC n).nonce = s.nonce := rfl
@[simp] theorem setC_len (n : Nat) : (s.setC n).len = s.len := rfl
@[simp] theorem setC_msg (n : Nat) : (s.setC n).msg = s.msg := rfl
@[simp] theorem setC_phase (n : Nat) : (s.setC n).phase = s.phase := rfl
@[simp] theorem setC_t (n : Nat) : (s.setC n).t = s.t := rfl
@[simp] theorem setC_c (n : Nat) : (s.setC n).c = some n := rfl
@[simp] theorem setC_i (n : Nat) : (s.setC n).i = s.i := rfl
@[simp] theorem setC_hist (n : Nat) : (s.setC n).hist = s.hist := rfl

@[simp] theorem setI_ctxInit (n : Nat) : (s.setI n).ctxInit = s.ctxInit := rfl
@[simp] theorem setI_ctxPool (n : Nat) : (s.setI n).ctxPool = s.ctxPool := rfl
@[simp] theorem setI_ctxFk1 (n : Nat) : (s.setI n).ctxFk1 = s.ctxFk1 := rfl
@[simp] theorem setI_ctxFk2 (n : Nat) : (s.setI n).ctxFk2 = s.ctxFk2 := rfl
@[simp] theorem setI_ctxValid (n : Nat) : (s.setI n).ctxValid = s.ctxValid := rfl
@[simp] theorem setI_fault (n : Nat) : (s.setI n).fault = s.fault := rfl
@[simp] theorem setI_inp (n : Nat) : (s.setI n).inp = s.inp := rfl
@[simp] theorem setI_out (n : Nat) : (s.setI n).out = s.out := rfl
@[simp] theorem setI_x (n : Nat) : (s.setI n).x = s.x := rfl
@[simp] theorem setI_t0 (n : Nat) : (s.setI n).t0 = s.t0 := rfl
@[simp] theorem setI_ki (n : Nat) : (s.setI n).ki = s.ki := rfl
@[simp] theorem setI_key (n : Nat) : (s.setI n).key = s.key := rfl
@[simp] theorem setI_nonce (n : Nat) : (s.setI n).nonce = s.nonce := rfl
@[simp] theorem setI_len (n : Nat) : (s.setI n).len = s.len := rfl
@[simp] theorem setI_msg (n : Nat) : (s.setI n).msg = s.msg := rfl
@[simp] theorem setI_phase (n : Nat) : (s.setI n).phase = s.phase := rfl
@[simp] theorem setI_t (n : Nat) : (s.setI n).t = s.t := rfl
@[simp] theorem setI_c (n : Nat) : (s.setI n).c = s.c := rfl
@[simp] theorem setI_i (n : Nat) : (s.setI n).i = some n := rfl
@[simp] theorem setI_hist (n : Nat) : (s.setI n).hist = s.hist := rfl

@[simp] theorem latchKey_ctxInit (w : Word) : (s.latchKey w).ctxInit = s.ctxInit := rfl
@[simp] theorem latchKey_ctxPool (w : Word) : (s.latchKey w).ctxPool = s.ctxPool := rfl
@[simp] theorem latchKey_ctxFk1 (w : Word) : (s.latchKey w).ctxFk1 = s.ctxFk1 := rfl
@[simp] theorem latchKey_ctxFk2 (w : Word) : (s.latchKey w).ctxFk2 = s.ctxFk2 := rfl
@[simp] theorem latchKey_ctxValid (w : Word) : (s.latchKey w).ctxValid = s.ctxValid := rfl
@[simp] theorem latchKey_fault (w : Word) : (s.latchKey w).fault = s.fault := rfl
@[simp] theorem latchKey_inp (w : Word) : (s.latchKey w).inp = s.inp := rfl
@[simp] theorem latchKey_out (w : Word) : (s.latchKey w).out = s.out := rfl
@[simp] theorem latchKey_x (w : Word) : (s.latchKey w).x = s.x := rfl
@[simp] theorem latchKey_t0 (w : Word) : (s.latchKey w).t0 = s.t0 := rfl
@[simp] theorem latchKey_ki (w : Word) : (s.latchKey w).ki = s.ki := rfl
@[simp] theorem latchKey_key (w : Word) : (s.latchKey w).key = some w := rfl
@[simp] theorem latchKey_nonce (w : Word) : (s.latchKey w).nonce = s.nonce := rfl
@[simp] theorem latchKey_len (w : Word) : (s.latchKey w).len = s.len := rfl
@[simp] theorem latchKey_msg (w : Word) : (s.latchKey w).msg = s.msg := rfl
@[simp] theorem latchKey_phase (w : Word) : (s.latchKey w).phase = s.phase := rfl
@[simp] theorem latchKey_t (w : Word) : (s.latchKey w).t = s.t := rfl
@[simp] theorem latchKey_c (w : Word) : (s.latchKey w).c = s.c := rfl
@[simp] theorem latchKey_i (w : Word) : (s.latchKey w).i = s.i := rfl
@[simp] theorem latchKey_hist (w : Word) : (s.latchKey w).hist = s.hist := rfl

@[simp] theorem latchMac_ctxInit (w : Word) (l : BitVec 64) (m : Memory) :
    (s.latchMac w l m).ctxInit = s.ctxInit := rfl
@[simp] theorem latchMac_ctxPool (w : Word) (l : BitVec 64) (m : Memory) :
    (s.latchMac w l m).ctxPool = s.ctxPool := rfl
@[simp] theorem latchMac_ctxFk1 (w : Word) (l : BitVec 64) (m : Memory) :
    (s.latchMac w l m).ctxFk1 = s.ctxFk1 := rfl
@[simp] theorem latchMac_ctxFk2 (w : Word) (l : BitVec 64) (m : Memory) :
    (s.latchMac w l m).ctxFk2 = s.ctxFk2 := rfl
@[simp] theorem latchMac_ctxValid (w : Word) (l : BitVec 64) (m : Memory) :
    (s.latchMac w l m).ctxValid = s.ctxValid := rfl
@[simp] theorem latchMac_fault (w : Word) (l : BitVec 64) (m : Memory) :
    (s.latchMac w l m).fault = s.fault := rfl
@[simp] theorem latchMac_inp (w : Word) (l : BitVec 64) (m : Memory) :
    (s.latchMac w l m).inp = s.inp := rfl
@[simp] theorem latchMac_out (w : Word) (l : BitVec 64) (m : Memory) :
    (s.latchMac w l m).out = s.out := rfl
@[simp] theorem latchMac_x (w : Word) (l : BitVec 64) (m : Memory) :
    (s.latchMac w l m).x = s.x := rfl
@[simp] theorem latchMac_t0 (w : Word) (l : BitVec 64) (m : Memory) :
    (s.latchMac w l m).t0 = s.t0 := rfl
@[simp] theorem latchMac_ki (w : Word) (l : BitVec 64) (m : Memory) :
    (s.latchMac w l m).ki = s.ki := rfl
@[simp] theorem latchMac_key (w : Word) (l : BitVec 64) (m : Memory) :
    (s.latchMac w l m).key = s.key := rfl
@[simp] theorem latchMac_nonce (w : Word) (l : BitVec 64) (m : Memory) :
    (s.latchMac w l m).nonce = some w := rfl
@[simp] theorem latchMac_len (w : Word) (l : BitVec 64) (m : Memory) :
    (s.latchMac w l m).len = some l := rfl
@[simp] theorem latchMac_msg (w : Word) (l : BitVec 64) (m : Memory) :
    (s.latchMac w l m).msg = some m := rfl
@[simp] theorem latchMac_phase (w : Word) (l : BitVec 64) (m : Memory) :
    (s.latchMac w l m).phase = s.phase := rfl
@[simp] theorem latchMac_t (w : Word) (l : BitVec 64) (m : Memory) :
    (s.latchMac w l m).t = s.t := rfl
@[simp] theorem latchMac_c (w : Word) (l : BitVec 64) (m : Memory) :
    (s.latchMac w l m).c = s.c := rfl
@[simp] theorem latchMac_i (w : Word) (l : BitVec 64) (m : Memory) :
    (s.latchMac w l m).i = s.i := rfl
@[simp] theorem latchMac_hist (w : Word) (l : BitVec 64) (m : Memory) :
    (s.latchMac w l m).hist = s.hist := rfl

@[simp] theorem dropMacLatches_ctxInit : (s.dropMacLatches).ctxInit = s.ctxInit := rfl
@[simp] theorem dropMacLatches_ctxPool : (s.dropMacLatches).ctxPool = s.ctxPool := rfl
@[simp] theorem dropMacLatches_ctxFk1 : (s.dropMacLatches).ctxFk1 = s.ctxFk1 := rfl
@[simp] theorem dropMacLatches_ctxFk2 : (s.dropMacLatches).ctxFk2 = s.ctxFk2 := rfl
@[simp] theorem dropMacLatches_ctxValid : (s.dropMacLatches).ctxValid = s.ctxValid := rfl
@[simp] theorem dropMacLatches_fault : (s.dropMacLatches).fault = s.fault := rfl
@[simp] theorem dropMacLatches_inp : (s.dropMacLatches).inp = s.inp := rfl
@[simp] theorem dropMacLatches_out : (s.dropMacLatches).out = s.out := rfl
@[simp] theorem dropMacLatches_x : (s.dropMacLatches).x = s.x := rfl
@[simp] theorem dropMacLatches_t0 : (s.dropMacLatches).t0 = s.t0 := rfl
@[simp] theorem dropMacLatches_ki : (s.dropMacLatches).ki = s.ki := rfl
@[simp] theorem dropMacLatches_key : (s.dropMacLatches).key = s.key := rfl
@[simp] theorem dropMacLatches_nonce : (s.dropMacLatches).nonce = none := rfl
@[simp] theorem dropMacLatches_len : (s.dropMacLatches).len = none := rfl
@[simp] theorem dropMacLatches_msg : (s.dropMacLatches).msg = none := rfl
@[simp] theorem dropMacLatches_phase : (s.dropMacLatches).phase = s.phase := rfl
@[simp] theorem dropMacLatches_t : (s.dropMacLatches).t = s.t := rfl
@[simp] theorem dropMacLatches_c : (s.dropMacLatches).c = s.c := rfl
@[simp] theorem dropMacLatches_i : (s.dropMacLatches).i = s.i := rfl
@[simp] theorem dropMacLatches_hist : (s.dropMacLatches).hist = s.hist := rfl

@[simp] theorem endDerive_ctxInit : (s.endDerive).ctxInit = s.ctxInit := rfl
@[simp] theorem endDerive_ctxPool : (s.endDerive).ctxPool = s.ctxPool := rfl
@[simp] theorem endDerive_ctxFk1 : (s.endDerive).ctxFk1 = s.ctxFk1 := rfl
@[simp] theorem endDerive_ctxFk2 : (s.endDerive).ctxFk2 = s.ctxFk2 := rfl
@[simp] theorem endDerive_ctxValid : (s.endDerive).ctxValid = s.ctxValid := rfl
@[simp] theorem endDerive_fault : (s.endDerive).fault = s.fault := rfl
@[simp] theorem endDerive_inp : (s.endDerive).inp = s.inp := rfl
@[simp] theorem endDerive_out : (s.endDerive).out = s.out := rfl
@[simp] theorem endDerive_x : (s.endDerive).x = s.x := rfl
@[simp] theorem endDerive_t0 : (s.endDerive).t0 = s.t0 := rfl
@[simp] theorem endDerive_ki : (s.endDerive).ki = none := rfl
@[simp] theorem endDerive_key : (s.endDerive).key = none := rfl
@[simp] theorem endDerive_nonce : (s.endDerive).nonce = s.nonce := rfl
@[simp] theorem endDerive_len : (s.endDerive).len = s.len := rfl
@[simp] theorem endDerive_msg : (s.endDerive).msg = s.msg := rfl
@[simp] theorem endDerive_phase : (s.endDerive).phase = .idle := rfl
@[simp] theorem endDerive_t : (s.endDerive).t = s.t := rfl
@[simp] theorem endDerive_c : (s.endDerive).c = none := rfl
@[simp] theorem endDerive_i : (s.endDerive).i = s.i := rfl
@[simp] theorem endDerive_hist : (s.endDerive).hist = s.hist := rfl

@[simp] theorem endMac_ctxInit : (s.endMac).ctxInit = s.ctxInit := rfl
@[simp] theorem endMac_ctxPool : (s.endMac).ctxPool = s.ctxPool := rfl
@[simp] theorem endMac_ctxFk1 : (s.endMac).ctxFk1 = s.ctxFk1 := rfl
@[simp] theorem endMac_ctxFk2 : (s.endMac).ctxFk2 = s.ctxFk2 := rfl
@[simp] theorem endMac_ctxValid : (s.endMac).ctxValid = s.ctxValid := rfl
@[simp] theorem endMac_fault : (s.endMac).fault = s.fault := rfl
@[simp] theorem endMac_inp : (s.endMac).inp = s.inp := rfl
@[simp] theorem endMac_out : (s.endMac).out = s.out := rfl
@[simp] theorem endMac_x : (s.endMac).x = none := rfl
@[simp] theorem endMac_t0 : (s.endMac).t0 = none := rfl
@[simp] theorem endMac_ki : (s.endMac).ki = s.ki := rfl
@[simp] theorem endMac_key : (s.endMac).key = s.key := rfl
@[simp] theorem endMac_nonce : (s.endMac).nonce = none := rfl
@[simp] theorem endMac_len : (s.endMac).len = none := rfl
@[simp] theorem endMac_msg : (s.endMac).msg = none := rfl
@[simp] theorem endMac_phase : (s.endMac).phase = .idle := rfl
@[simp] theorem endMac_t : (s.endMac).t = none := rfl
@[simp] theorem endMac_c : (s.endMac).c = s.c := rfl
@[simp] theorem endMac_i : (s.endMac).i = none := rfl
@[simp] theorem endMac_hist : (s.endMac).hist = none := rfl

@[simp] theorem storeContext_ctxInit (v : Context) :
    (s.storeContext v).ctxInit = v.init.map some := rfl
@[simp] theorem storeContext_ctxPool (v : Context) :
    (s.storeContext v).ctxPool = v.pool.map some := rfl
@[simp] theorem storeContext_ctxFk1 (v : Context) : (s.storeContext v).ctxFk1 = some v.fk1 := rfl
@[simp] theorem storeContext_ctxFk2 (v : Context) : (s.storeContext v).ctxFk2 = some v.fk2 := rfl
@[simp] theorem storeContext_ctxValid (v : Context) :
    (s.storeContext v).ctxValid = s.ctxValid := rfl
@[simp] theorem storeContext_fault (v : Context) : (s.storeContext v).fault = s.fault := rfl
@[simp] theorem storeContext_inp (v : Context) : (s.storeContext v).inp = s.inp := rfl
@[simp] theorem storeContext_out (v : Context) : (s.storeContext v).out = s.out := rfl
@[simp] theorem storeContext_x (v : Context) : (s.storeContext v).x = s.x := rfl
@[simp] theorem storeContext_t0 (v : Context) : (s.storeContext v).t0 = s.t0 := rfl
@[simp] theorem storeContext_ki (v : Context) : (s.storeContext v).ki = s.ki := rfl
@[simp] theorem storeContext_key (v : Context) : (s.storeContext v).key = s.key := rfl
@[simp] theorem storeContext_nonce (v : Context) : (s.storeContext v).nonce = s.nonce := rfl
@[simp] theorem storeContext_len (v : Context) : (s.storeContext v).len = s.len := rfl
@[simp] theorem storeContext_msg (v : Context) : (s.storeContext v).msg = s.msg := rfl
@[simp] theorem storeContext_phase (v : Context) : (s.storeContext v).phase = s.phase := rfl
@[simp] theorem storeContext_t (v : Context) : (s.storeContext v).t = s.t := rfl
@[simp] theorem storeContext_c (v : Context) : (s.storeContext v).c = s.c := rfl
@[simp] theorem storeContext_i (v : Context) : (s.storeContext v).i = s.i := rfl
@[simp] theorem storeContext_hist (v : Context) : (s.storeContext v).hist = s.hist := rfl

@[simp] theorem hostSend_ctxInit (bs : List Byte) : (s.hostSend bs).ctxInit = s.ctxInit := rfl
@[simp] theorem hostSend_ctxPool (bs : List Byte) : (s.hostSend bs).ctxPool = s.ctxPool := rfl
@[simp] theorem hostSend_ctxFk1 (bs : List Byte) : (s.hostSend bs).ctxFk1 = s.ctxFk1 := rfl
@[simp] theorem hostSend_ctxFk2 (bs : List Byte) : (s.hostSend bs).ctxFk2 = s.ctxFk2 := rfl
@[simp] theorem hostSend_ctxValid (bs : List Byte) : (s.hostSend bs).ctxValid = s.ctxValid := rfl
@[simp] theorem hostSend_fault (bs : List Byte) : (s.hostSend bs).fault = s.fault := rfl
@[simp] theorem hostSend_inp (bs : List Byte) : (s.hostSend bs).inp = s.inp ++ bs := rfl
@[simp] theorem hostSend_out (bs : List Byte) : (s.hostSend bs).out = s.out := rfl
@[simp] theorem hostSend_x (bs : List Byte) : (s.hostSend bs).x = s.x := rfl
@[simp] theorem hostSend_t0 (bs : List Byte) : (s.hostSend bs).t0 = s.t0 := rfl
@[simp] theorem hostSend_ki (bs : List Byte) : (s.hostSend bs).ki = s.ki := rfl
@[simp] theorem hostSend_key (bs : List Byte) : (s.hostSend bs).key = s.key := rfl
@[simp] theorem hostSend_nonce (bs : List Byte) : (s.hostSend bs).nonce = s.nonce := rfl
@[simp] theorem hostSend_len (bs : List Byte) : (s.hostSend bs).len = s.len := rfl
@[simp] theorem hostSend_msg (bs : List Byte) : (s.hostSend bs).msg = s.msg := rfl
@[simp] theorem hostSend_phase (bs : List Byte) : (s.hostSend bs).phase = s.phase := rfl
@[simp] theorem hostSend_t (bs : List Byte) : (s.hostSend bs).t = s.t := rfl
@[simp] theorem hostSend_c (bs : List Byte) : (s.hostSend bs).c = s.c := rfl
@[simp] theorem hostSend_i (bs : List Byte) : (s.hostSend bs).i = s.i := rfl
@[simp] theorem hostSend_hist (bs : List Byte) : (s.hostSend bs).hist = s.hist := rfl

end Sys2Proof.Machine
end

