-- ==== Sys2Proof/Laws/Ops.lean ====
section
/-! SUPPORT. What each shared operation of the machine can do, said once. -/

namespace Sys2Proof.Machine

open Host (Outcome)

/-! ## Raising an event, accepting a command -/

/-- The checks of MAC.CHECK raise an error of the MAC and nothing else, in their order (R165). -/
theorem macCheckEvent_cases (v : Bool) (len : BitVec 64) :
    (v = false ∧ macCheckEvent v len = some .noContext) ∨
    (v = true ∧ len.toNat < 192 ∧ macCheckEvent v len = some .shortMessage) ∨
    (v = true ∧ 192 ≤ len.toNat ∧ macCheckEvent v len = none) := by
  unfold macCheckEvent
  cases v
  · simp
  · by_cases h : len.toNat < 192
    · simp [h]
    · simp [h]; omega

/-- Everything command acceptance can do (R20, R140). -/
theorem acceptCommand_cases (s : State) :
    (s.fault = true ∧ s.acceptCommand = s) ∨
    (s.fault = false ∧ (∃ e, decodePacket s.inp = .error e) ∧ s.acceptCommand = s) ∨
    (∃ key rest, s.fault = false ∧ decodePacket s.inp = .ok (.derive key, rest) ∧
      s.acceptCommand = s.acceptDerive key) ∨
    (∃ nonce len msg rest, s.fault = false ∧
      decodePacket s.inp = .ok (.mac nonce len msg, rest) ∧
      s.acceptCommand = s.acceptMac nonce len msg) ∨
    (∃ b rest, s.fault = false ∧ decodePacket s.inp = .ok (.illegal b, rest) ∧
      s.acceptCommand = s.acceptIllegal) := by
  cases hf : s.fault with
  | true => exact .inl ⟨rfl, by simp [State.acceptCommand, hf]⟩
  | false =>
    cases hd : decodePacket s.inp with
    | error e => exact .inr (.inl ⟨rfl, ⟨e, rfl⟩, by simp [State.acceptCommand, hf, hd]⟩)
    | ok r =>
      obtain ⟨i, rest⟩ := r
      obtain ⟨tl, _, _, rfl, _⟩ | ⟨tl, len, _, _, _, rfl, _⟩ | ⟨b, _, _, _, rfl⟩ :=
        decodePacket_cases hd
      · exact .inr (.inr (.inl ⟨_, _, rfl, rfl, by simp [State.acceptCommand, hf, hd]⟩))
      · exact .inr (.inr (.inr (.inl ⟨_, _, _, _, rfl, rfl, by simp [State.acceptCommand, hf, hd]⟩)))
      · exact .inr (.inr (.inr (.inr ⟨_, _, rfl, rfl, by simp [State.acceptCommand, hf, hd]⟩)))

/-! ## Fetching -/

/-- Outside IDLE the phase's own row runs. -/
theorem fetch_of_phase_ne {s : State} (h : s.phase ≠ .idle) : s.fetch = phaseInstr s.phase := by
  unfold State.fetch
  cases hp : s.phase <;> first | rfl | exact absurd hp h

/-- In IDLE the command at the head of `IN` runs. -/
theorem fetch_of_packet {s : State} {i : Instr} {rest : List Byte} (h : s.phase = .idle)
    (hd : decodePacket s.inp = .ok (i, rest)) : s.fetch = i := by
  simp [State.fetch, h, hd]

/-- In IDLE, while no whole packet is there, IDLE itself runs. -/
theorem fetch_of_stop {s : State} {e : DecodeStop} (h : s.phase = .idle)
    (hd : decodePacket s.inp = .error e) : s.fetch = .idle := by
  simp [State.fetch, h, hd]

/-! ## One step -/

/-- Outside IDLE a step is the phase's own row (R144). -/
theorem step_of_phase {s : State} {p : Phase} (h : s.phase = p) (hp : p ≠ .idle) :
    step s = exec (phaseInstr p) s := by
  subst h
  rw [step, fetch_of_phase_ne hp]

/-! ## The padded message and the pool windows -/

/-- A message word that no byte of the padded message is in is zero (R37). -/
theorem mw_outside (m : Memory) (i : Int) (h : i < 0 ∨ 4 * ((nfull m.length : Int) + 1) ≤ i) :
    mw m i = zeroWord := by
  rw [mw, if_neg (by omega)]

/-- A message word inside the padded message is made of its sixteen bytes there (R37). -/
theorem mw_inside (m : Memory) (i : Nat) (h : i < 4 * (nfull m.length + 1)) :
    mw m i = wordOfBytes (((paddedMessage m).drop (16 * i)).take 16) := by
  rw [mw, if_pos (by omega)]
  simp

/-- Word `r` of a window is a pool word (R130). -/
@[simp] theorem window_getElem (s : State) (i r : Nat) (h : r < 10) :
    (s.window i)[r] = s.readPool (i + r) := by
  simp [State.window]

/-- A role that exists reads its word of the register (R14). -/
theorem readRole_of_lt (s : State) (j : Nat) (h : j < 9) : s.readRole j = s.readX[j] := by
  simp [State.readRole, Vector.getElem?_eq_getElem h]

/-! ## The absorption round -/

@[simp] theorem absorbRound_x (s : State) (m0 m1 m2 m3 tap : Word) :
    (s.absorbRound m0 m1 m2 m3 tap).x =
      some (auRound Config.params s.readX m0 m1 m2 m3 tap) := rfl

@[simp] theorem absorbRound_hist (s : State) (m0 m1 m2 m3 tap : Word) :
    (s.absorbRound m0 m1 m2 m3 tap).hist = some (shiftHist s.readHist m0 m1 m2 m3) := rfl

/-- An absorption round writes the register and the tap history and nothing else (R110, R21). -/
theorem absorbRound_spec (s : State) (m0 m1 m2 m3 tap : Word) :
    s.absorbRound m0 m1 m2 m3 tap =
      { s with
        x := some (auRound Config.params s.readX m0 m1 m2 m3 tap)
        hist := some (shiftHist s.readHist m0 m1 m2 m3) } := rfl

/-! ## Writes of single words -/

/-- A word of `init` that exists reads back after it is written. -/
theorem readInit_writeInit_same (s : State) (c : Nat) (w : Word) (h : c < 9) :
    (s.writeInit c w).readInit c = w := by
  simp [State.readInit, h]

/-- A write of a word of `init` leaves the others. -/
theorem readInit_writeInit_ne (s : State) (c j : Nat) (w : Word) (h : c ≠ j) :
    (s.writeInit c w).readInit j = s.readInit j := by
  simp [State.readInit, Vector.getElem?_setIfInBounds_ne h]

/-- A word of the pool that exists reads back after it is written. -/
theorem readPool_writePool_same (s : State) (c : Nat) (w : Word) (h9 : 9 ≤ c) (h : c < 27) :
    (s.writePool c w).readPool (c - 9) = w := by
  simp [State.readPool, h9, show c - 9 < 18 by omega]

/-- A write of a word of the pool leaves the others. -/
theorem readPool_writePool_ne (s : State) (c k : Nat) (w : Word) (h : c ≠ k + 9) :
    (s.writePool c w).readPool k = s.readPool k := by
  unfold State.readPool
  rw [writePool_ctxPool]
  split
  · rw [Vector.getElem?_setIfInBounds_ne (by omega)]
  · rfl

/-- A Context that is stored reads back (R10, R141). -/
@[simp] theorem storeContext_context (s : State) (ctx : Context) :
    (s.storeContext ctx).context = ctx := by
  cases ctx
  simp only [State.context, State.readInit, State.readPool, State.readFk1, State.readFk2,
    storeContext_ctxInit, storeContext_ctxPool, storeContext_ctxFk1, storeContext_ctxFk2,
    Option.getD_some, Context.mk.injEq, and_true]
  exact ⟨Vector.ext fun j hj => by simp, Vector.ext fun k hk => by simp⟩

/-! ## Memory -/

/-- A decoded MAC carries a message inside the bound of the message space (R31). -/
theorem decodePacket_memory_wf {bs rest : List Byte} {nonce : Word} {len : BitVec 64}
    {msg : List Byte} (h : decodePacket bs = .ok (.mac nonce len msg, rest)) :
    Memory.wf msg = true ∧ msg.length = len.toNat := by
  obtain ⟨_, _, _, h1, _⟩ | ⟨tl, l, _, hl, _, h1, _⟩ | ⟨_, _, _, _, h1⟩ := decodePacket_cases h
  · cases h1
  · simp only [Instr.mac.injEq] at h1
    obtain ⟨_, rfl, rfl⟩ := h1
    have hle : ((tl.drop 24).take len.toNat).length = len.toNat := by
      simp; omega
    refine ⟨?_, hle⟩
    simp only [Memory.wf, hle, decide_eq_true_eq]
    exact len.isLt
  · cases h1

/-- Accepting a command, the one operation that installs a message, keeps the message space inside
its bound (R31). -/
theorem acceptCommand_memory_wf (s : State) (h : ∀ m, s.msg = some m → Memory.wf m = true)
    (m : Memory) (hm : s.acceptCommand.msg = some m) : Memory.wf m = true := by
  obtain ⟨_, hs⟩ | ⟨_, _, hs⟩ | ⟨_, _, _, _, hs⟩ | ⟨_, _, _, _, _, hd, hs⟩ | ⟨_, _, _, _, hs⟩ :=
    acceptCommand_cases s <;> rw [hs] at hm
  · exact h m hm
  · exact h m hm
  · exact h m (by simpa [State.acceptDerive] using hm)
  · simp only [State.acceptMac, setPhase_msg, consume_msg, latchMac_msg, Option.some.injEq] at hm
    exact hm ▸ (decodePacket_memory_wf hd).1
  · exact h m (by simpa [State.acceptIllegal, State.raise] using hm)

/-- The message space after reset holds no message. -/
theorem reset_memory_wf (m : Memory) (h : State.reset.msg = some m) : Memory.wf m = true := by
  cases h

/-- A read inside the message gives the bytes asked for (R31). -/
theorem memRead_byte (m : Memory) (a : Nat) (h : a < m.length) :
    memRead m a 1 = some [m[a]] := by
  rw [memRead, if_pos (by omega)]
  exact congrArg some (by rw [List.drop_eq_getElem_cons h]; rfl)

/-- A read that passes the end of the message is not defined (R31). -/
theorem memRead_outside (m : Memory) (a n : Nat) (h : m.length < a + n) : memRead m a n = none := by
  rw [memRead, if_neg (by omega)]

end Sys2Proof.Machine
end

