-- ==== Sys2Proof/Laws/PerInstr.lean ====
section
/-! SUPPORT. What holds of every instruction, said once per constructor: where its encoding stands and how
long it is. -/

namespace Sys2Proof.Laws

/-- A well-formed command is a packet on `IN`, of the length R51, R52 and R55 give it; a
micro-operation is one of the twenty codes that `PHASE` takes (R56). -/
def EncodedShape.Statement (i : Instr) : Prop :=
  i.wf = true →
    (i.onStream = true ∧ ∃ bytes, encode i = .packet bytes ∧ bytes.length = packetLength i) ∨
    (i.onStream = false ∧ ∃ code p, encode i = .phase code ∧ phaseOfCode code = some p ∧
      phaseInstr p = i)

theorem EncodedShape.derive (key : Word) : EncodedShape.Statement (.derive key) := fun _ =>
  .inl ⟨rfl, _, rfl, encodeDerive_length key⟩

theorem EncodedShape.mac (nonce : Word) (len : BitVec 64) (msg : List Byte) :
    EncodedShape.Statement (.mac nonce len msg) := fun h =>
  .inl ⟨rfl, _, rfl, by
    rw [encodeMac_length, packetLength, show msg.length = len.toNat by simpa [Instr.wf] using h]⟩

theorem EncodedShape.illegal (opcode : Byte) : EncodedShape.Statement (.illegal opcode) := fun _ =>
  .inl ⟨rfl, _, rfl, rfl⟩

theorem EncodedShape.idle : EncodedShape.Statement .idle := fun _ =>
  .inr ⟨rfl, _, .idle, rfl, rfl, rfl⟩

theorem EncodedShape.ctxKs : EncodedShape.Statement .ctxKs := fun _ =>
  .inr ⟨rfl, _, .ctxKs, rfl, rfl, rfl⟩

theorem EncodedShape.ctxInit : EncodedShape.Statement .ctxInit := fun _ =>
  .inr ⟨rfl, _, .ctxInit, rfl, rfl, rfl⟩

theorem EncodedShape.ctxPool : EncodedShape.Statement .ctxPool := fun _ =>
  .inr ⟨rfl, _, .ctxPool, rfl, rfl, rfl⟩

theorem EncodedShape.ctxFk1 : EncodedShape.Statement .ctxFk1 := fun _ =>
  .inr ⟨rfl, _, .ctxFk1, rfl, rfl, rfl⟩

theorem EncodedShape.ctxFk2 : EncodedShape.Statement .ctxFk2 := fun _ =>
  .inr ⟨rfl, _, .ctxFk2, rfl, rfl, rfl⟩

theorem EncodedShape.macCheck : EncodedShape.Statement .macCheck := fun _ =>
  .inr ⟨rfl, _, .macCheck, rfl, rfl, rfl⟩

theorem EncodedShape.auLoad : EncodedShape.Statement .auLoad := fun _ =>
  .inr ⟨rfl, _, .auLoad, rfl, rfl, rfl⟩

theorem EncodedShape.auWarmup1 : EncodedShape.Statement .auWarmup1 := fun _ =>
  .inr ⟨rfl, _, .auWarmup1, rfl, rfl, rfl⟩

theorem EncodedShape.auWarmup2 : EncodedShape.Statement .auWarmup2 := fun _ =>
  .inr ⟨rfl, _, .auWarmup2, rfl, rfl, rfl⟩

theorem EncodedShape.auWarmup3 : EncodedShape.Statement .auWarmup3 := fun _ =>
  .inr ⟨rfl, _, .auWarmup3, rfl, rfl, rfl⟩

theorem EncodedShape.auSteady : EncodedShape.Statement .auSteady := fun _ =>
  .inr ⟨rfl, _, .auSteady, rfl, rfl, rfl⟩

theorem EncodedShape.auPad : EncodedShape.Statement .auPad := fun _ =>
  .inr ⟨rfl, _, .auPad, rfl, rfl, rfl⟩

theorem EncodedShape.auDrain1 : EncodedShape.Statement .auDrain1 := fun _ =>
  .inr ⟨rfl, _, .auDrain1, rfl, rfl, rfl⟩

theorem EncodedShape.auDrain2 : EncodedShape.Statement .auDrain2 := fun _ =>
  .inr ⟨rfl, _, .auDrain2, rfl, rfl, rfl⟩

theorem EncodedShape.auDrain3 : EncodedShape.Statement .auDrain3 := fun _ =>
  .inr ⟨rfl, _, .auDrain3, rfl, rfl, rfl⟩

theorem EncodedShape.finNonce : EncodedShape.Statement .finNonce := fun _ =>
  .inr ⟨rfl, _, .finNonce, rfl, rfl, rfl⟩

theorem EncodedShape.finFold : EncodedShape.Statement .finFold := fun _ =>
  .inr ⟨rfl, _, .finFold, rfl, rfl, rfl⟩

theorem EncodedShape.finTag : EncodedShape.Statement .finTag := fun _ =>
  .inr ⟨rfl, _, .finTag, rfl, rfl, rfl⟩

theorem EncodedShape.faultHalt : EncodedShape.Statement .faultHalt := fun _ =>
  .inr ⟨rfl, _, .faultHalt, rfl, rfl, rfl⟩

end Sys2Proof.Laws
end

