-- ==== Sys2Proof/Laws/Run.lean ====
section
/-! SUPPORT. Runs of several steps of the machine. -/

namespace Sys2Proof.Machine

/-- A run of one step more begins with that step. -/
theorem coreRun_succ (M : Host.Core) (n : Nat) (s : M.State) :
    M.run (n + 1) s = match M.step s with
      | .next t => M.run n t
      | .fault r => .fault r
      | .refused r => .refused r := rfl

/-- No step is the state itself. -/
@[simp] theorem run_zero (s : State) : Sys2Proof.core.run 0 s = .next s := rfl

/-- A run of one step more begins with that step, when it answers a next state. -/
theorem run_succ {s t : State} (n : Nat) (h : step s = .next t) :
    Sys2Proof.core.run (n + 1) s = Sys2Proof.core.run n t := by
  have h' : Sys2Proof.core.step s = .next t := h
  exact (coreRun_succ Sys2Proof.core n s).trans (by rw [h'])

/-- A run goes on where its first part ends. -/
theorem run_add {s t : State} (m n : Nat) (h : Sys2Proof.core.run m s = .next t) :
    Sys2Proof.core.run (m + n) s = Sys2Proof.core.run n t := by
  induction m generalizing s with
  | zero => cases h; rw [Nat.zero_add]
  | succ m ih =>
    cases hs : step s with
    | next s' =>
      rw [run_succ m hs] at h
      rw [show m + 1 + n = (m + n) + 1 by omega, run_succ _ hs, ih h]
    | fault r => cases r
    | refused r =>
      have hs' : Sys2Proof.core.step s = .refused r := hs
      have hr := coreRun_succ Sys2Proof.core m s
      rw [hs'] at hr
      cases h.symm.trans hr

/-- A state that steps to itself stays. -/
theorem run_fixed {s : State} (n : Nat) (h : step s = .next s) :
    Sys2Proof.core.run n s = .next s := by
  induction n with
  | zero => rfl
  | succ n ih => rw [run_succ n h, ih]

end Sys2Proof.Machine
end

