-- ==== Sys2Proof/Laws/Work.lean ====
section
/-! SUPPORT. What each metered function and each row costs, said once. -/

namespace Sys2Proof.Machine

/-! ## Adding work -/

@[simp] theorem addWork_mk (a b c a' b' c' : Nat) :
    addWork ⟨a, b, c⟩ ⟨a', b', c'⟩ = ⟨a + a', b + b', c + c'⟩ := rfl

@[simp] theorem addWork_noWork (a : Work) : addWork a noWork = a := rfl

@[simp] theorem noWork_addWork (a : Work) : addWork noWork a = a := by
  simp [addWork, noWork]

theorem addWork_assoc (a b c : Work) : addWork (addWork a b) c = addWork a (addWork b c) := by
  simp [addWork, Nat.add_assoc]

/-! ## The functions: the value of the plain form, and its cost -/

theorem meteredWhitenedRounds_eq {m : Nat} (w : Vector Word m) (b : Word) (n : Nat) :
    meteredWhitenedRounds w b n = ⟨whitenedRounds w b n, ⟨0, n, 0⟩⟩ := by
  induction n with
  | zero => rfl
  | succ n ih => rw [meteredWhitenedRounds, ih]; rfl

theorem meteredEncrypt_eq (sched : Vector Word 11) (b : Word) :
    meteredEncrypt sched b = ⟨encrypt sched b, ⟨0, 10, 0⟩⟩ := by
  rw [meteredEncrypt, meteredWhitenedRounds_eq]; rfl

theorem meteredPermuteTruncated_eq (w : Vector Word 10) (b : Word) :
    meteredPermuteTruncated w b = ⟨permuteTruncated w b, ⟨0, 10, 0⟩⟩ := by
  rw [meteredPermuteTruncated, meteredWhitenedRounds_eq]; rfl

theorem meteredAuRound_eq (p : Params) (x : Vector Word 9) (m0 m1 m2 m3 tap : Word) :
    meteredAuRound p x m0 m1 m2 m3 tap = ⟨auRound p x m0 m1 m2 m3 tap, ⟨0, 8, 0⟩⟩ := by
  simp [meteredAuRound, auRound, meteredAesRound, Vector.toList_ofFn, List.ofFn_succ, noWork]

theorem meteredDerivedWord_eq (s : State) (c : Nat) :
    s.meteredDerivedWord c = ⟨derivedWord s.readKi c, ⟨0, 10, 0⟩⟩ :=
  meteredEncrypt_eq _ _

/-- The round metered is the one formula of R120. -/
theorem meteredRound_eq (s : State) :
    s.meteredRound = ⟨uniformRound Config.params s.readMsg s.readT s.readX, ⟨0, 8, 0⟩⟩ :=
  meteredAuRound_eq _ _ _ _ _ _ _

/-! ## The rows -/

/-- What the row of each phase costs, in every state. -/
def phaseCost : Phase → Work
  | .idle | .faultHalt => ⟨0, 0, 0⟩
  | .macCheck | .auLoad => ⟨1, 0, 0⟩
  | .ctxKs => ⟨1, 0, 1⟩
  | .ctxInit | .ctxPool | .finNonce | .finFold | .finTag => ⟨1, 10, 0⟩
  | .ctxFk1 | .ctxFk2 => ⟨1, 10, 1⟩
  | .auWarmup1 | .auWarmup2 | .auWarmup3 | .auSteady | .auPad | .auDrain1 | .auDrain2
  | .auDrain3 => ⟨1, 8, 0⟩

theorem rowWork_phase (p : Phase) (s : State) : rowWork (phaseInstr p) s = phaseCost p := by
  cases p <;>
    simp [rowWork, rowFunctionWork, phaseInstr, isMicroOp, phaseCost, meteredExpand,
      meteredThen, meteredDerivedWord_eq, meteredRound_eq, meteredEncrypt_eq,
      meteredPermuteTruncated_eq, noWork]

/-- A step costs what its phase's row costs: accepting a command costs nothing, as waiting does. -/
theorem rowWork_fetch (s : State) : rowWork s.fetch s = phaseCost s.phase := by
  by_cases hp : s.phase = .idle
  · rw [hp]
    cases hd : decodePacket s.inp with
    | error e => rw [fetch_of_stop hp hd]; exact rowWork_phase .idle s
    | ok r =>
      rw [fetch_of_packet hp hd]
      obtain ⟨_, _, _, h, _⟩ | ⟨_, _, _, _, _, h, _⟩ | ⟨_, _, _, _, h⟩ := decodePacket_cases hd <;>
        rw [h] <;> rfl
  · rw [fetch_of_phase_ne hp, rowWork_phase]

/-! ## Runs -/

@[simp] theorem workOfRun_zero (s : State) : workOfRun 0 s = noWork := rfl

theorem workOfRun_succ {s t : State} (n : Nat) (h : step s = .next t) :
    workOfRun (n + 1) s = addWork (phaseCost s.phase) (workOfRun n t) := by
  rw [workOfRun, h, ← rowWork_fetch]

/-- The work of a run goes on where its first part ends. -/
theorem workOfRun_add {s t : State} (m n : Nat) (h : Sys2Proof.core.run m s = .next t) :
    workOfRun (m + n) s = addWork (workOfRun m s) (workOfRun n t) := by
  induction m generalizing s with
  | zero => cases h; simp
  | succ m ih =>
    cases hs : step s with
    | next u =>
      rw [run_succ m hs] at h
      rw [show m + 1 + n = (m + n) + 1 by omega, workOfRun_succ _ hs, workOfRun_succ _ hs, ih h,
        addWork_assoc]
    | fault r => cases r
    | refused r =>
      have hs' : Sys2Proof.core.step s = .refused r := hs
      have hr := coreRun_succ Sys2Proof.core m s
      rw [hs'] at hr
      cases h.symm.trans hr

end Sys2Proof.Machine
end

