-- ==== Sys2Proof/Tests/Slice0.lean ====
section
/-! SUPPORT. The model's own tests. Expected values are those of spec/95_test_vectors.md ("95") and
spec/96_vectors_cipher_and_context.md ("96"), or are worked out by hand from the rule named. Each
`witness_` theorem shows states and operands that meet the hypotheses of the statement it names. -/

namespace Sys2Proof.Tests

set_option Elab.async false

open Sys2Proof Machine

/-! ## Helpers -/

/-- Whether an outcome is a next state that passes a check. -/
def onNext (o : Host.Outcome State Fault Refusal) (check : State → Bool) : Bool :=
  match o with
  | .next t => check t
  | .fault _ => false
  | .refused _ => false

/-- The key `K1` of 95. -/
def k1 : Word := 0x000102030405060708090a0b0c0d0e0f

/-- The nonce `N1` of 95. -/
def n1 : Word := 0xf0f1f2f3f4f5f6f7f8f9fafbfcfdfeff

/-- `seq(n)` of R58. -/
def seqBytes (n : Nat) : List Byte := msgBytes (.seq n)

/-- The block in IDLE with bytes in `IN`. -/
def fed (bytes : List Byte) : State := State.reset.hostSend bytes

/-- Inside a DERIVE of `K1`: counter `c`, phase `p`, no Context word written. -/
def derivingAt (c : Nat) (p : Phase) : State :=
  { State.reset with key := some k1, ki := some (expand k1), c := some c, phase := p }

/-- A block that has derived the Context of a key. -/
def loaded (key : Word) : State := (State.reset.storeContext (deriveContext key)).setCtxValid

/-- Inside a MAC under the Context of the zero key: the nonce `N1` and a message latched, phase `p`. -/
def latched (m : List Byte) (p : Phase) : State :=
  ((loaded zeroWord).latchMac n1 (BitVec.ofNat 64 m.length) m).setPhase p

/-- Inside the absorption of `m`: register `x`, round counter `t`. -/
def absorbingAt (m : List Byte) (x : Vector Word 9) (t : Nat) (p : Phase) : State :=
  (((latched m p).writeX x).writeHist (historyAfter m t)).setT t

/-- A register of nine zero words. -/
def zeroX : Vector Word 9 := Vector.replicate 9 zeroWord

/-- The register of 95 section 3.2 after AU.WARMUP3. -/
def x2 : Vector Word 9 :=
  #v[0xdb2daefe30810268dc53947c4c26c319,
     0x80c7c0dbe0a434476ac56c5f056fa6e6,
     0xcabf266dfb8a05688fcc0057ef865b90,
     0x0578b1659f04e04f3b1361b596074fd4,
     0x8dc9d370f55ddb46dd837a0bacb6cf41,
     0x7effaa26b670cd623a8dfef4aca7531c,
     0x3ea8453e51d2ee6c195edcd4ce150f15,
     0x51380403169a0194a534835e706c13ad,
     0x075893f2e927bd712f54efd4d319845f]

/-- The register of 95 section 3.2 after AU.PAD. -/
def x3 : Vector Word 9 :=
  #v[0x075893f2e927bd712f54efd4d319845f,
     0x8b13964db10c63a2b4016d08460b2ff4,
     0x8421ad52b563dfd3fd3c3e4f501bd7e6,
     0x684d6c41c6ee721b98bc0dac8d29ecaf,
     0x7df68430e3fb6215c7b43b23d01e9147,
     0x3633206c23f1f6f577adadc4d7cb589a,
     0x291b70c7612fd097f97d7a2401de3c66,
     0x640bfb4c9549a8396684a1f03024c1fc,
     0x13000e0da08b285a2c89cfec8f834638]

/-- The register of 95 section 3.2 after AU.DRAIN1. -/
def x4 : Vector Word 9 :=
  #v[0x13000e0da08b285a2c89cfec8f834638,
     0xcef3e6c28a360054327a9c6a4074202a,
     0xe02161e0f9eca0f7d64ad343f8869a08,
     0x94f152af990a2281b1d3600aa08f1e85,
     0x5c0e53c291b4c8718748a97a55d1967d,
     0xb67cd4ac2b8c8937079ae1ceaa371734,
     0xdf404650d2f9973581efae7b1c496dab,
     0x87c94a5df2ea8ca9d7d8a5f7549f6937,
     0x49d3d7b7e435fe0b215c2d483b833fe6]

/-- The digest of 95 section 3.2. -/
def digest : Vector Word 9 :=
  #v[0x209229971f17d5806f110ca230458d09,
     0x81f18f04d0cb29cdeb0770a89caa1f44,
     0xcba1d0b575bc96e458839330e2966f36,
     0x7eba1e98595eeeebf29eba97cdeb96eb,
     0xc195b5c48e8e904e760fe75f0b5da546,
     0x2080b2bca2621d17ba3f8954f912ab24,
     0xdc18e3178f033c34d1963fa368a403bc,
     0x633fa3ca7b3c34591d015949135ba308,
     0xc8ad4aeb2832392018c00b0012215ecc]

/-- In the finalizer of 95 section 4.1: the nonce zero, the digest, the accumulator. -/
def folding (t0 : Word) (i : Nat) (p : Phase) : State :=
  ((((((loaded zeroWord).latchMac zeroWord 192 (List.replicate 192 0)).writeX digest).writeHist
    (historyAfter (List.replicate 192 0) 7)).writeT0 t0).setI i).setPhase p

/-! ## WellFormed: a term that each check refuses -/

theorem test_wf_mac_length : Instr.wf (.mac n1 3 [0xaa, 0xbb]) = false := by decide

theorem test_wf_illegal_is_not_derive : Instr.wf (.illegal 0x01) = false := by decide

theorem test_wf_illegal_is_not_mac : Instr.wf (.illegal 0x02) = false := by decide

theorem test_wf_accepts : Instr.wf (.mac n1 2 [0xaa, 0xbb]) = true ∧ Instr.wf (.illegal 0x00) = true := by
  decide

/-! ## Decoding: every row, from its code written out (R51, R52, R55, R56; 95 section 5.1) -/

theorem test_decode_derive :
    decodePacket [0x01, 0x00, 0x01, 0x02, 0x03, 0x04, 0x05, 0x06, 0x07, 0x08, 0x09, 0x0a, 0x0b, 0x0c,
      0x0d, 0x0e, 0x0f, 0xee] = .ok (.derive 0x000102030405060708090a0b0c0d0e0f, [0xee]) := by decide

theorem test_decode_mac :
    decodePacket [0x02, 0xf0, 0xf1, 0xf2, 0xf3, 0xf4, 0xf5, 0xf6, 0xf7, 0xf8, 0xf9, 0xfa, 0xfb, 0xfc,
      0xfd, 0xfe, 0xff, 0x03, 0x00, 0x00, 0x00, 0x00, 0x00, 0x00, 0x00, 0x0a, 0x0b, 0x0c, 0xee] =
      .ok (.mac 0xf0f1f2f3f4f5f6f7f8f9fafbfcfdfeff 3 [0x0a, 0x0b, 0x0c], [0xee]) := by decide

/-- `LEN` is little-endian: `00 01` announces 256 bytes (R33, R52). -/
theorem test_decode_mac_length_order :
    decodePacket ([0x02] ++ List.replicate 16 0x00 ++ [0x00, 0x01, 0, 0, 0, 0, 0, 0] ++
      List.replicate 255 0x00) = .error .macMessageIncomplete ∧
    (decodePacket ([0x02] ++ List.replicate 16 0x00 ++ [0x00, 0x01, 0, 0, 0, 0, 0, 0] ++
      List.replicate 256 0x00)).isOk = true := by decide +kernel

theorem test_decode_illegal :
    decodePacket [0x00] = .ok (.illegal 0x00, []) ∧ decodePacket [0x03, 0x01] = .ok (.illegal 0x03, [0x01]) ∧
    decodePacket [0xff] = .ok (.illegal 0xff, []) := by decide

theorem test_decode_incomplete :
    decodePacket [] = .error .empty ∧
    decodePacket (0x01 :: List.replicate 15 0x00) = .error .deriveIncomplete ∧
    decodePacket (0x02 :: List.replicate 23 0x00) = .error .macHeaderIncomplete := by decide

theorem test_decode_phases_derive :
    decode (.phase 0x00) = .ok (.idle, []) ∧ decode (.phase 0x01) = .ok (.ctxKs, []) ∧
    decode (.phase 0x02) = .ok (.ctxInit, []) ∧ decode (.phase 0x03) = .ok (.ctxPool, []) ∧
    decode (.phase 0x04) = .ok (.ctxFk1, []) ∧ decode (.phase 0x05) = .ok (.ctxFk2, []) := by decide

theorem test_decode_phases_absorb :
    decode (.phase 0x08) = .ok (.macCheck, []) ∧ decode (.phase 0x09) = .ok (.auLoad, []) ∧
    decode (.phase 0x0A) = .ok (.auWarmup1, []) ∧ decode (.phase 0x0B) = .ok (.auWarmup2, []) ∧
    decode (.phase 0x0C) = .ok (.auWarmup3, []) ∧ decode (.phase 0x0D) = .ok (.auSteady, []) ∧
    decode (.phase 0x0E) = .ok (.auPad, []) ∧ decode (.phase 0x0F) = .ok (.auDrain1, []) ∧
    decode (.phase 0x10) = .ok (.auDrain2, []) ∧ decode (.phase 0x11) = .ok (.auDrain3, []) := by decide

theorem test_decode_phases_finish :
    decode (.phase 0x12) = .ok (.finNonce, []) ∧ decode (.phase 0x13) = .ok (.finFold, []) ∧
    decode (.phase 0x14) = .ok (.finTag, []) ∧ decode (.phase 0x1F) = .ok (.faultHalt, []) ∧
    decode (.phase 0x06) = .error (.unusedPhase 0x06) ∧
    decode (.phase 0x15) = .error (.unusedPhase 0x15) := by decide

/-- The table's own numbering (log entry 9). -/
theorem test_decode_table_words :
    decodeTableWord 8 0x01 = some (.derive zeroWord) ∧ decodeTableWord 8 0x02 = some (.mac zeroWord 0 []) ∧
    decodeTableWord 0 0x00 = some (.illegal 0x00) ∧ decodeTableWord 5 0x01 = some .ctxKs ∧
    decodeTableWord 5 0x02 = some .ctxInit ∧ decodeTableWord 8 0x00 = some .idle ∧
    decodeTableWord 32 0x08000004 = some .ctxFk1 ∧ decodeTableWord 8 0x1F = some .faultHalt := by decide

/-! ## The cipher, the key schedule, the Context (96) -/

theorem test_field :
    xtime 0x57 = 0xae ∧ xtime 0xae = 0x47 ∧ xtime 0x80 = 0x1b ∧ gmul 0x57 0x13 = 0xfe ∧
    gmul 0x57 0x83 = 0xc1 ∧ inv 0x53 = 0xca ∧ inv 0x00 = 0x00 ∧ inv 0x01 = 0x01 ∧
    sbox 0x10 = 0xca ∧ sbox 0x7f = 0xd2 ∧ sbox 0xc9 = 0xdd ∧ sboxAffine 0x53 = 0xed := by
  decide +kernel

theorem test_round_step_by_step :
    subBytes 0x193de3bea0f4e22b9ac68d2ae9f84808 = 0xd42711aee0bf98f1b8b45de51e415230 ∧
    shiftRows 0xd42711aee0bf98f1b8b45de51e415230 = 0xd4bf5d30e0b452aeb84111f11e2798e5 ∧
    mixColumns 0xd4bf5d30e0b452aeb84111f11e2798e5 = 0x046681e5e0cb199a48f8d37a2806264c ∧
    aesRound k1 k1 = 0x6a6b5e4628683556b8d0576a2b912f53 ∧
    aesFinalRound k1 k1 = 0x636a6575f604ad7c38de7dcef2716124 := by decide +kernel

theorem test_expand_k1 :
    (expand k1)[4] = 0x47f7f7bc95353e03f96c32bcfd058dfd ∧
    (expand k1)[10] = 0x13111d7fe3944a17f307a78b4d2b30c5 := by decide +kernel

theorem test_permute_truncated :
    permuteTruncated (Vector.ofFn fun r : Fin 10 => (expand k1)[r.val]) 0x00112233445566778899aabbccddeeff =
      0xca70bcf34ab9936f089fdcb1aa83e908 := by decide +kernel

theorem test_context_k1 :
    (deriveContext k1).init[0] = 0xc6a13b37878f5b826f4f8162a1c8d879 ∧
    (deriveContext k1).pool[0] = 0x7d9ac6c53ae558a0933e2f03b4d2a280 ∧
    (deriveContext k1).fk2[0] = 0xe23c89af946616bea7772672be25508b := by decide +kernel

/-- `CTR_ORDER` big-endian, not the default (96 section 2.6). -/
theorem test_counter_order :
    encrypt (expand zeroWord) (counterBlock { Config.params with ctrOrder := .big } 1) =
      0x58e2fccefa7e3061367f1d57a4e7455a ∧
    counterBlock Config.params 28 = 0x1c000000000000000000000000000000 := by decide +kernel

/-- 95 section 3.1. -/
theorem test_au_round :
    auRound Config.params
      (Vector.ofFn fun j : Fin 9 => wordOfBytes ((List.range 16).map fun k => BitVec.ofNat 8 (16 * j + k)))
      (wordOfBytes (List.replicate 16 0xa0)) (wordOfBytes (List.replicate 16 0xa1))
      (wordOfBytes (List.replicate 16 0xa2)) (wordOfBytes (List.replicate 16 0xa3))
      (wordOfBytes (List.replicate 16 0x5a)) =
    #v[0x78797a7b7c7d7e7f7071727374757677, 0xc9c9ffe68fce90f2137afec2843f82ff,
       0xa5e634862401eeea2ced28d9f546d99c, 0x6448c6922fb23b22e45d3e3458c3d1c0,
       0xfc7db650d7928bb57e167382d833bb9b, 0x5290e710eea6f0adb6fbb2c285c9707f,
       0x690723931209d693fa086ae5d5a3086d, 0x6745dbce534a28ef40fc03e9671ef973,
       0xb574ada821c7f04e6fcf64326487034a] := by decide +kernel

/-- The end-to-end scenario, 95 section 1, P6. -/
theorem test_mac_tag :
    macTag zeroWord zeroWord (List.replicate 192 0) = .ok 0x7e076933fcbb0f52b8d1891f2f6584ba := by
  decide +kernel

/-- 95 section 3.3, the padded words of `seq(200)`. -/
theorem test_message_words :
    mw (seqBytes 200) 11 = 0xb0b1b2b3b4b5b6b7b8b9babbbcbdbebf ∧
    mw (seqBytes 200) 12 = 0xc0c1c2c3c4c5c6c70100000000000000 ∧
    mw (seqBytes 200) 15 = zeroWord ∧ mw (seqBytes 200) 16 = zeroWord ∧
    mw (seqBytes 200) (-1) = zeroWord := by decide +kernel

/-- `rem = 63`: the pad byte is the last byte of the padding block (95 section 4.2). -/
theorem test_padding_rem_63 :
    mw (List.replicate 255 0x00) 15 = 0x00000000000000000000000000000001 ∧
    (paddedMessage (List.replicate 255 0x00)).length = 256 ∧
    (paddedMessage (List.replicate 256 0x00)).length = 320 := by decide +kernel

/-! ## Commands, one step each (95 section 5.2) -/

theorem test_derive_accepted :
    onNext (exec (.derive k1) (fed ([0x01] ++ wordBytes k1 ++ [0x02]))) (fun t =>
      t.key == some k1 && t.inp == [0x02] && t.phase == .ctxKs && t.out == []) = true := by decide +kernel

theorem test_derive_waits_for_byte_17 :
    onNext (step (fed ([0x01] ++ List.replicate 15 0x00))) (fun t =>
      t == fed ([0x01] ++ List.replicate 15 0x00)) = true := by decide +kernel

theorem test_mac_accepted :
    onNext (exec (.mac n1 1 [0xaa]) (fed ([0x02] ++ wordBytes n1 ++ [1, 0, 0, 0, 0, 0, 0, 0, 0xaa, 0xbb])))
      (fun t => t.nonce == some n1 && t.len == some 1 && t.msg == some [0xaa] && t.inp == [0xbb] &&
        t.phase == .macCheck) = true := by decide +kernel

theorem test_illegal_halts :
    onNext (exec (.illegal 0x03) (fed [0x03, 0x01])) (fun t =>
      t.out == [0xff] && t.fault && t.phase == .faultHalt && t.inp == [0x01]) = true := by decide +kernel

theorem test_idle_accepts_derive :
    onNext (exec .idle (fed ([0x01] ++ List.replicate 16 0x07))) (fun t =>
      t.key == some 0x07070707070707070707070707070707 && t.phase == .ctxKs && t.inp == []) = true := by
  decide +kernel

theorem test_idle_on_empty_stream : onNext (exec .idle State.reset) (fun t => t == State.reset) = true := by
  decide +kernel

/-- `L = 191` without a Context answers `02`, not `01` (R165). -/
theorem test_mac_check_context_first :
    onNext (exec .macCheck (((State.reset.latchMac zeroWord 191 []).setPhase .macCheck))) (fun t =>
      t.out == [0x02] && t.phase == .idle && t.len == none && !t.fault) = true := by decide +kernel

/-- The boundary 191, 192 under a Context (R143). -/
theorem test_mac_check_boundary :
    onNext (exec .macCheck (latched (List.replicate 191 0) .macCheck)) (fun t =>
      t.out == [0x01] && t.phase == .idle) = true ∧
    onNext (exec .macCheck (latched (List.replicate 192 0) .macCheck)) (fun t =>
      t.out == [] && t.phase == .auLoad) = true := by decide +kernel

theorem test_fault_halt_ignores_packets :
    onNext (step ((fed ([0x01] ++ List.replicate 16 0x00)).raise .illegalCommand)) (fun t =>
      t.inp.length == 17 && t.out == [0xff] && t.phase == .faultHalt) = true := by decide +kernel

/-! ## Derivation, one step each (96 section 2.6) -/

theorem test_ctx_ks :
    onNext (exec .ctxKs { State.reset with key := some k1, phase := .ctxKs }) (fun t =>
      t.ki.map (fun v => v[10]) == some 0x13111d7fe3944a17f307a78b4d2b30c5 && t.c == some 0 &&
        t.phase == .ctxInit) = true := by decide +kernel

theorem test_ctx_init_last :
    onNext (exec .ctxInit (derivingAt 8 .ctxInit)) (fun t =>
      t.ctxInit[8] == some 0xc70fc62bc9b04594b54fa98224e54fd4 && t.ctxInit[7] == none &&
        t.c == some 9 && t.phase == .ctxPool) = true := by decide +kernel

theorem test_ctx_pool_last :
    onNext (exec .ctxPool (derivingAt 26 .ctxPool)) (fun t =>
      t.ctxPool[17] == some 0xeabb18f341147edef976bbca610c6945 && t.ctxPool[16] == none &&
        t.c == some 27 && t.phase == .ctxFk1) = true := by decide +kernel

theorem test_ctx_fk1 :
    onNext (exec .ctxFk1 (derivingAt 27 .ctxFk1)) (fun t =>
      t.ctxFk1.map (fun v => v[10]) == some 0xb8d781fcd05ae3580eda30da05fda297 && t.c == some 28 &&
        t.phase == .ctxFk2 && !t.ctxValid) = true := by decide +kernel

theorem test_ctx_fk2 :
    onNext (exec .ctxFk2 (derivingAt 28 .ctxFk2)) (fun t =>
      t.ctxFk2.map (fun v => v[10]) == some 0x6e7752f4826e1d63c56ee35711b489ea && t.ctxValid &&
        t.out == [0x00] && t.ki == none && t.key == none && t.phase == .idle) = true := by decide +kernel

/-! ## Absorption, one step each (95 sections 3.2 to 3.4). With a zero register, role 0 becomes `m2`
with the tap XORed in, so the tap of the row shows. -/

theorem test_au_load :
    onNext (exec .auLoad (latched (List.replicate 192 0) .auLoad)) (fun t =>
      t.x.map (fun v => v[8]) == some 0x64e82b50e501fbd7dd4116921159b83e && t.t == some 0 &&
        t.hist == some (Vector.replicate 10 zeroWord) && t.phase == .auWarmup1) = true := by decide +kernel

theorem test_au_warmup1 :
    onNext (exec .auWarmup1 (absorbingAt (seqBytes 200) zeroX 0 .auWarmup1)) (fun t =>
      t.x.map (fun v => v[0]) == some (0x202122232425262728292a2b2c2d2e2f) && t.t == some 1 &&
        t.phase == .auWarmup2) = true := by decide +kernel

theorem test_au_warmup2 :
    onNext (exec .auWarmup2 (absorbingAt (seqBytes 200) zeroX 1 .auWarmup2)) (fun t =>
      t.x.map (fun v => v[0]) == some (0x606162636465666768696a6b6c6d6e6f ^^^
        0x101112131415161718191a1b1c1d1e1f) && t.t == some 2 &&
        t.phase == .auWarmup3) = true := by decide +kernel

theorem test_au_warmup3_without_steady :
    onNext (exec .auWarmup3 (absorbingAt (seqBytes 200) zeroX 2 .auWarmup3)) (fun t =>
      t.x.map (fun v => v[0]) == some (0xa0a1a2a3a4a5a6a7a8a9aaabacadaeaf ^^^
        0x606162636465666768696a6b6c6d6e6f) && t.t == some 3 &&
        t.phase == .auPad) = true := by decide +kernel

theorem test_au_warmup3_to_steady :
    onNext (exec .auWarmup3 (absorbingAt (seqBytes 330) zeroX 2 .auWarmup3)) (fun t =>
      t.x.map (fun v => v[0]) == some (0xa0a1a2a3a4a5a6a7a8a9aaabacadaeaf ^^^
        0x606162636465666768696a6b6c6d6e6f) && t.t == some 3 &&
        t.phase == .auSteady) = true := by decide +kernel

theorem test_au_steady_again :
    onNext (exec .auSteady (absorbingAt (seqBytes 330) zeroX 3 .auSteady)) (fun t =>
      t.x.map (fun v => v[0]) == some (0xe0e1e2e3e4e5e6e7e8e9eaebecedeeef ^^^
        0x80808080808080808080808080808080) && t.t == some 4 &&
        t.phase == .auSteady) = true := by decide +kernel

theorem test_au_steady_last :
    onNext (exec .auSteady (absorbingAt (seqBytes 330) zeroX 4 .auSteady)) (fun t =>
      t.x.map (fun v => v[0]) == some (0x202122232425262728292a2b2c2d2e2f ^^^
        0x80808080808080808080808080808080) && t.t == some 5 &&
        t.phase == .auPad) = true := by decide +kernel

theorem test_au_pad_tap :
    onNext (exec .auPad (absorbingAt (seqBytes 330) zeroX 5 .auPad)) (fun t =>
      t.x.map (fun v => v[0]) == some (0x80808080808080808080808080808080) && t.t == some 6 &&
        t.phase == .auDrain1) = true := by decide +kernel

/-- 95 section 3.2: all nine roles; the pad byte enters by `m0`. -/
theorem test_au_pad_register :
    onNext (exec .auPad (absorbingAt (List.replicate 192 0) x2 3 .auPad)) (fun t =>
      t.x == some x3 && t.t == some 4 && t.phase == .auDrain1) = true := by decide +kernel

theorem test_au_drain1_tap :
    onNext (exec .auDrain1 (absorbingAt (seqBytes 330) zeroX 6 .auDrain1)) (fun t =>
      t.x.map (fun v => v[0]) == some (0xd0d1d2d3d4d5d6d7d8d9dadbdcdddedf) && t.t == some 7 &&
        t.phase == .auDrain2) = true := by decide +kernel

/-- 95 section 3.2: all nine roles. -/
theorem test_au_drain1_register :
    onNext (exec .auDrain1 (absorbingAt (List.replicate 192 0) x3 4 .auDrain1)) (fun t =>
      t.x == some x4) = true := by decide +kernel

theorem test_au_drain2_tap :
    onNext (exec .auDrain2 (absorbingAt (seqBytes 330) zeroX 7 .auDrain2)) (fun t =>
      t.x.map (fun v => v[0]) == some (0x202122232425262728292a2b2c2d2e2f) && t.t == some 8 &&
        t.phase == .auDrain3) = true := by decide +kernel

/-- `L = 376`: the last word of the tap, `MW(4P + 2)`, holds message bytes `a0 ..` (R119). -/
theorem test_au_drain3_tap :
    onNext (exec .auDrain3 (absorbingAt (List.replicate 376 0xa0) zeroX 8 .auDrain3)) (fun t =>
      t.x.map (fun v => v[0]) == some 0xa0a0a0a0a0a0a0a0a0a0a0a0a0a0a0a0 && t.phase == .finNonce) = true := by
  decide +kernel

/-! ## The finalizer, one step each (95 section 4.1) -/

theorem test_fin_nonce :
    onNext (exec .finNonce ((loaded zeroWord).latchMac n1 192 (List.replicate 192 0))) (fun t =>
      t.t0 == some 0xbcf1aef3df4cd955a759e797b17718bf && t.i == some 0 && t.phase == .finFold) = true := by
  decide +kernel

theorem test_fin_fold_first :
    onNext (exec .finFold (folding 0x63d8c4fbaf379779ca33ad1337bc75d6 0 .finFold)) (fun t =>
      t.t0 == some 0x2f77bb3c249a901ea96302fb7f746040 && t.i == some 1 && t.phase == .finFold) = true := by
  decide +kernel

theorem test_fin_fold_last :
    onNext (exec .finFold (folding 0x257dd9f84a8623f81e0dff4b4fcf0495 8 .finFold)) (fun t =>
      t.t0 == some 0x1ed753081169b657f89eb467eb4e2758 && t.i == some 9 && t.phase == .finTag) = true := by
  decide +kernel

theorem test_fin_tag :
    onNext (exec .finTag (folding 0x1ed753081169b657f89eb467eb4e2758 9 .finTag)) (fun t =>
      t.out == [0x00, 0x7e, 0x07, 0x69, 0x33, 0xfc, 0xbb, 0x0f, 0x52, 0xb8, 0xd1, 0x89, 0x1f, 0x2f, 0x65,
        0x84, 0xba] && t.x == none && t.t0 == none && t.msg == none && t.ctxValid && t.phase == .idle) =
      true := by decide +kernel

/-! ## Fetching -/

theorem test_fetch_word :
    (State.reset.withFetchWord 8 0x03).fetch = .ctxPool ∧
    onNext (step (State.reset.withFetchWord 8 0x1F)) (fun t => t.phase == .faultHalt && !t.fault) = true ∧
    onNext (step (State.reset.withFetchWord 8 0x01)) (fun t => t.key == some zeroWord) = true := by
  decide +kernel

/-! ## The textual form (R58, R59; 95 section 5.1) -/

theorem test_read_derive :
    readLine "DERIVE 000102030405060708090a0b0c0d0e0f".toList = some (.derive k1) := by decide +kernel

theorem test_read_tag :
    readLine "TAG 000102030405060708090a0b0c0d0e0f, f0f1f2f3f4f5f6f7f8f9fafbfcfdfeff, rep(aa, 3) || 01 # t".toList =
      some (.tag k1 n1 (.cat (.rep 0xaa 3) (.hex [0x01]))) := by decide +kernel

theorem test_read_empty_message :
    readLine "MAC f0f1f2f3f4f5f6f7f8f9fafbfcfdfeff,    # empty message".toList = some (.mac n1 (.hex [])) ∧
    readLine "RAW 03".toList = some (.raw [0x03]) ∧ readLine "RESET".toList = some .reset := by
  decide +kernel

theorem test_message_expressions :
    msgBytes (.pat [0x01, 0x23, 0x45] 5) = [0x01, 0x23, 0x45, 0x01, 0x23] ∧
    msgBytes (.cat (.seq 3) (.rep 0xff 2)) = [0x00, 0x01, 0x02, 0xff, 0xff] ∧
    lineBytes (.mac n1 (.hex [])) = 0x02 :: (wordBytes n1 ++ List.replicate 8 0x00) := by decide +kernel

/-! ## Witnesses: states that meet the hypotheses of the statements -/

theorem witness_SboxIsAffineInverse : (0x01 : Byte) ≠ 0 := by decide

theorem witness_SubBytesActsOnEachByte :
    (15 < 16) ∧ byteAt 0x01000000000000000000000000000007 15 = byteAt 0x02000000000000000000000000000007 15 := by
  decide

theorem witness_ShiftRowsRotatesRows : (3 < 4) ∧ (0 < 4) := by decide

theorem witness_MixColumnsMixesEachColumn :
    (3 < 4) ∧ ∀ q < 4, byteAt 0x010101010202020203030303c6c6c6c6 (4 * 3 + q) = 0xc6 := by decide

theorem witness_ExpandFollowsTheRecurrence : (9 < 10) ∧ (0 < 10) ∧ (2 < 3) := by decide

theorem witness_CtxKsExpandsTheKey :
    ({ State.reset with key := some k1, phase := .ctxKs } : State).key = some k1 := rfl

theorem witness_CtxInitWritesOneInitWord :
    (0 < 9 ∧ (derivingAt 0 .ctxInit).ki = some (expand k1) ∧ (derivingAt 0 .ctxInit).c = some 0) ∧
    (8 < 9 ∧ (derivingAt 8 .ctxInit).ki = some (expand k1) ∧ (derivingAt 8 .ctxInit).c = some 8) ∧ 28 ≤ 28 :=
  ⟨⟨by decide, rfl, rfl⟩, ⟨by decide, rfl, rfl⟩, le_refl _⟩

theorem witness_CtxPoolWritesOnePoolWord :
    (0 < 18 ∧ (derivingAt 9 .ctxPool).ki = some (expand k1) ∧ (derivingAt 9 .ctxPool).c = some (0 + 9)) ∧
    (17 < 18 ∧ (derivingAt 26 .ctxPool).ki = some (expand k1) ∧ (derivingAt 26 .ctxPool).c = some (17 + 9)) :=
  ⟨⟨by decide, rfl, rfl⟩, ⟨by decide, rfl, rfl⟩⟩

theorem witness_CtxFk1WritesTheFirstFinalizationSchedule :
    (derivingAt 27 .ctxFk1).ki = some (expand k1) := rfl

/-- At the end of a DERIVE of `K1`, before CTX.FK2. -/
def beforeFk2 : State :=
  { (State.reset.storeContext (deriveContext k1)) with
    key := some k1, ki := some (expand k1), c := some 28, phase := .ctxFk2 }

theorem witness_CtxFk2PublishesTheContext :
    beforeFk2.ki = some (expand k1) ∧ beforeFk2.sound = true ∧ beforeFk2.phase = .ctxFk2 ∧
      ∃ t, exec .ctxFk2 beforeFk2 = .next t :=
  ⟨rfl, by decide +kernel, rfl, _, rfl⟩

theorem witness_AuRoundRotatesTheRegister :
    Config.params.fbBase = [8] ∧
    ({ Config.params with keySel := Vector.replicate 8 .m0, ctrOrder := .big } : Params).fbBase = [8] ∧
    (0 < 8 ∧ 7 < 8) := by decide

theorem witness_MessageWordsAreThePaddedBytes :
    (0 < 4 * (nfull (seqBytes 200).length + 1) ∧ 15 < 4 * (nfull (seqBytes 200).length + 1) ∧ 15 < 16) ∧
    16 * 12 + 7 < (seqBytes 200).length ∧ 16 * 12 + 8 = (seqBytes 200).length ∧
    (seqBytes 200).length < 16 * 12 + 9 ∧
    (-1 : Int) < 0 ∧ 4 * ((nfull (seqBytes 200).length : Int) + 1) ≤ 16 := by decide +kernel

theorem witness_TapHistoryGivesTheTap : (0 < 10) ∧ (9 < 10) := by decide

theorem witness_AuLoadTakesTheInitialRegister :
    (latched (seqBytes 200) .auLoad).ctxInit = (deriveContext zeroWord).init.map some := rfl

theorem witness_AuWarmup1AbsorbsBlockZero :
    let s := absorbingAt (seqBytes 200) zeroX 0 .auWarmup1
    s.x = some zeroX ∧ s.hist = some (historyAfter (seqBytes 200) 0) ∧ s.msg = some (seqBytes 200) :=
  ⟨rfl, rfl, rfl⟩

theorem witness_AuWarmup2AbsorbsBlockOne :
    let s := absorbingAt (seqBytes 200) zeroX 1 .auWarmup2
    s.x = some zeroX ∧ s.hist = some (historyAfter (seqBytes 200) 1) ∧ s.msg = some (seqBytes 200) :=
  ⟨rfl, rfl, rfl⟩

/-- Both sides of the test on `nfull`: 3 full blocks and 4. -/
theorem witness_AuWarmup3AbsorbsBlockTwo :
    (let s := absorbingAt (List.replicate 255 0) zeroX 2 .auWarmup3
     s.x = some zeroX ∧ s.hist = some (historyAfter (List.replicate 255 0) 2) ∧
       s.msg = some (List.replicate 255 0) ∧ s.len = some 255) ∧
    (let s := absorbingAt (List.replicate 256 0) zeroX 2 .auWarmup3
     s.x = some zeroX ∧ s.hist = some (historyAfter (List.replicate 256 0) 2) ∧
       s.msg = some (List.replicate 256 0) ∧ s.len = some 256) ∧
    ¬ (255 : BitVec 64).toNat / 64 > 3 ∧ (256 : BitVec 64).toNat / 64 > 3 :=
  ⟨⟨rfl, rfl, rfl, by decide +kernel⟩, ⟨rfl, rfl, rfl, by decide +kernel⟩, by decide, by decide⟩

/-- Both sides of the test on `t`: round 3 of 5 full blocks, and round 4. -/
theorem witness_AuSteadyAbsorbsBlockT :
    (let s := absorbingAt (seqBytes 330) zeroX 3 .auSteady
     s.x = some zeroX ∧ s.hist = some (historyAfter (seqBytes 330) 3) ∧ s.msg = some (seqBytes 330) ∧
       s.len = some 330 ∧ s.t = some 3) ∧
    (let s := absorbingAt (seqBytes 330) zeroX 4 .auSteady
     s.x = some zeroX ∧ s.hist = some (historyAfter (seqBytes 330) 4) ∧ s.msg = some (seqBytes 330) ∧
       s.len = some 330 ∧ s.t = some 4) ∧
    3 + 1 < (330 : BitVec 64).toNat / 64 ∧ ¬ 4 + 1 < (330 : BitVec 64).toNat / 64 :=
  ⟨⟨rfl, rfl, rfl, by decide +kernel, rfl⟩, ⟨rfl, rfl, rfl, by decide +kernel, rfl⟩, by decide, by decide⟩

theorem witness_AuPadAbsorbsThePaddingBlock :
    let s := absorbingAt (seqBytes 330) zeroX 5 .auPad
    s.x = some zeroX ∧ s.hist = some (historyAfter (seqBytes 330) 5) ∧ s.msg = some (seqBytes 330) ∧
      s.len = some 330 ∧ s.t = some 5 ∧ 5 = (330 : BitVec 64).toNat / 64 :=
  ⟨rfl, rfl, rfl, by decide +kernel, rfl, by decide⟩

theorem witness_AuDrainsApplyTheOutstandingTaps :
    let s := absorbingAt (seqBytes 330) zeroX 6 .auDrain1
    s.x = some zeroX ∧ s.hist = some (historyAfter (seqBytes 330) 6) ∧ s.msg = some (seqBytes 330) ∧
      s.len = some 330 ∧ s.t = some 6 ∧ 5 = (330 : BitVec 64).toNat / 64 ∧
      (seqBytes 330).length = (330 : BitVec 64).toNat :=
  ⟨rfl, rfl, rfl, by decide +kernel, rfl, by decide, by decide +kernel⟩

/-- The first of the eight phases and the last. -/
theorem witness_EightRoundsAreOneFormula :
    (absorbingAt (seqBytes 192) zeroX 0 .auWarmup1).sound = true ∧
    (absorbingAt (seqBytes 330) zeroX 8 .auDrain3).sound = true := by decide +kernel

theorem witness_FinNonceWhitensTheNonce :
    (latched (seqBytes 192) .finNonce).nonce = some n1 ∧
    (latched (seqBytes 192) .finNonce).ctxFk1 = some (deriveContext zeroWord).fk1 := ⟨rfl, rfl⟩

theorem witness_FinFoldFoldsOneDigestWord :
    (let s := folding zeroWord 0 .finFold
     0 < 9 ∧ s.ctxPool = (deriveContext zeroWord).pool.map some ∧ s.x = some digest ∧
       s.t0 = some zeroWord ∧ s.i = some 0) ∧
    (let s := folding zeroWord 8 .finFold
     8 < 9 ∧ s.ctxPool = (deriveContext zeroWord).pool.map some ∧ s.x = some digest ∧
       s.t0 = some zeroWord ∧ s.i = some 8) :=
  ⟨⟨by decide, rfl, rfl, rfl, rfl⟩, ⟨by decide, rfl, rfl, rfl, rfl⟩⟩

theorem witness_FinTagAnswersTheTag :
    (folding zeroWord 9 .finTag).t0 = some zeroWord ∧
    (folding zeroWord 9 .finTag).ctxFk2 = some (deriveContext zeroWord).fk2 := ⟨rfl, rfl⟩

theorem witness_DeriveIsAccepted :
    (fed (0x01 :: (wordBytes k1 ++ [0x02]))).fault = false ∧
    (fed (0x01 :: (wordBytes k1 ++ [0x02]))).inp = 0x01 :: (wordBytes k1 ++ [0x02]) := ⟨rfl, rfl⟩

theorem witness_MacIsAccepted :
    let s := fed (0x02 :: (wordBytes n1 ++ (leBytes 8 (2 : BitVec 64).toNat ++ ([0xaa, 0xbb] ++ []))))
    s.fault = false ∧ [(0xaa : Byte), 0xbb].length = (2 : BitVec 64).toNat ∧
      s.inp = 0x02 :: (wordBytes n1 ++ (leBytes 8 (2 : BitVec 64).toNat ++ ([0xaa, 0xbb] ++ []))) :=
  ⟨rfl, rfl, rfl⟩

theorem witness_IllegalOpcodeHaltsTheBlock :
    (fed [0x00, 0x01]).fault = false ∧ (0x00 : Byte) ≠ 0x01 ∧ (0x00 : Byte) ≠ 0x02 ∧
    (fed [0x00, 0x01]).inp = 0x00 :: [0x01] := by decide

/-- One stream for each clause: empty; a DERIVE of 16 bytes, and of 17; a MAC of 24 bytes; a header of
25 bytes that announces one message byte, without it and with it; an illegal byte. -/
theorem witness_IdleLooksAtTheHeadOfIn :
    State.reset.fault = false ∧ State.reset.inp = [] ∧
    (List.replicate 15 (0x00 : Byte)).length < 16 ∧ 16 ≤ (List.replicate 16 (0x00 : Byte)).length ∧
    (List.replicate 23 (0x00 : Byte)).length < 24 ∧
    (let rest : List Byte := List.replicate 16 0x00 ++ leBytes 8 (1 : BitVec 64).toNat
     24 ≤ rest.length ∧ (rest.drop 16).take 8 = leBytes 8 (1 : BitVec 64).toNat ∧
       rest.length < 24 + (1 : BitVec 64).toNat ∧ 24 + (1 : BitVec 64).toNat ≤ (rest ++ [0xaa]).length ∧
       ((rest ++ [0xaa]).drop 16).take 8 = leBytes 8 (1 : BitVec 64).toNat) ∧
    (0xff : Byte) ≠ 0x01 ∧ (0xff : Byte) ≠ 0x02 := by decide

theorem witness_FaultBlocksEveryCommand :
    (State.reset.raise .illegalCommand).fault = true ∧ Instr.onStream (.derive k1) = true := by decide

theorem witness_MacCheckChecksContextThenLength :
    (State.reset.latchMac n1 191 []).len = some 191 ∧ (State.reset.latchMac n1 191 []).ctxValid = false ∧
    ((loaded k1).latchMac n1 191 []).ctxValid = true ∧ (191 : BitVec 64).toNat < 192 ∧
    192 ≤ (192 : BitVec 64).toNat := ⟨rfl, rfl, rfl, by decide, by decide⟩

theorem witness_HaltLastsUntilReset : (State.reset.raise .illegalCommand).phase = .faultHalt := rfl

theorem witness_DecodeOfEncodeIsTheInstruction :
    Instr.wf (.mac n1 2 [0xaa, 0xbb]) = true ∧ Instr.onStream (.mac n1 2 [0xaa, 0xbb]) = true := by decide

theorem witness_EncodeOfDecodeIsTheBytes :
    decodePacket (encodePacket (.derive k1) ++ [0x05]) = .ok (.derive k1, [0x05]) ∧
    phaseOfCode 0x1F = some .faultHalt ∧ phaseOfCode 0x06 = none := by decide +kernel

theorem witness_IncompletePacketIsWaitedFor :
    Instr.wf (.mac n1 2 [0xaa, 0xbb]) = true ∧ 26 < (encodePacket (.mac n1 2 [0xaa, 0xbb])).length ∧
    0 < (encodePacket (.derive k1)).length ∧ 16 < (encodePacket (.derive k1)).length ∧
    (fed ((encodePacket (.derive k1)).take 16)).phase = .idle ∧
    (fed ((encodePacket (.derive k1)).take 16)).inp = (encodePacket (.derive k1)).take 16 := by decide +kernel

theorem witness_StepRunsTheDecodedInstruction :
    ((fed [0x03]).phase = .idle ∧ decodePacket (fed [0x03]).inp = .ok (.illegal 0x03, [])) ∧
    (State.reset.phase = .idle ∧ decodePacket State.reset.inp = .error .empty) ∧
    ((derivingAt 8 .ctxInit).phase ≠ .idle ∧
      decode (.phase (phaseCode (derivingAt 8 .ctxInit).phase)) = .ok (.ctxInit, [])) := by decide +kernel

/-- A sound, faithful state in the middle of an absorption, and one in IDLE with a Context. -/
theorem witness_StepKeepsFaithful :
    (let m := List.replicate 192 (0x00 : Byte)
     let s := absorbingAt m (absorbRounds Config.params (deriveContext zeroWord).init m 3) 3 .auPad
     s.sound = true ∧ s.faithful ∧ ∃ t, step s = .next t) ∧
    ((loaded k1).sound = true ∧ (loaded k1).faithful) := by
  have hc : ∀ key : Word, (State.reset.storeContext (deriveContext key)).context = deriveContext key :=
    fun key => storeContext_context State.reset (deriveContext key)
  refine ⟨⟨by decide +kernel, ⟨⟨zeroWord, hc zeroWord⟩, ?_, rfl⟩, _, rfl⟩, by decide +kernel,
    fun _ => ⟨k1, hc k1⟩⟩
  exact congrArg (fun c : Context => absorbRounds Config.params c.init (List.replicate 192 (0x00 : Byte)) 3)
    (hc zeroWord).symm

theorem witness_StepKeepsSound : beforeFk2.sound = true ∧ ∃ t, step beforeFk2 = .next t :=
  ⟨by decide +kernel, _, rfl⟩

theorem witness_HostKeepsSound : (loaded k1).sound = true ∧ (loaded k1).faithful :=
  witness_StepKeepsFaithful.2

theorem witness_OnlyDeriveWritesTheContext :
    (∃ t, step (latched (seqBytes 192) .auLoad) = .next t) ∧
    (latched (seqBytes 192) .auLoad).phase ∉ [Phase.ctxInit, .ctxPool, .ctxFk1, .ctxFk2] :=
  ⟨⟨_, rfl⟩, by decide⟩

theorem witness_FlagsChangeOnlyWhereSaid :
    (∃ t, step beforeFk2 = .next t) ∧ (∃ t, step (fed [0x03]) = .next t) := ⟨⟨_, rfl⟩, ⟨_, rfl⟩⟩

theorem witness_StreamsMoveOneWay : ∃ t, step (fed [0x03]) = .next t := ⟨_, rfl⟩

theorem witness_EachCommandIsAnsweredOnce :
    ∃ t, step beforeFk2 = .next t ∧ t.phase = .idle ∧ beforeFk2.phase ≠ .idle :=
  ⟨_, rfl, rfl, by decide⟩

theorem witness_OperandsStayWhileACommandRuns :
    ∃ t, step (latched (seqBytes 192) .auLoad) = .next t ∧
      (latched (seqBytes 192) .auLoad).phase ≠ .idle ∧ t.phase ≠ .idle :=
  ⟨_, rfl, by decide, by decide⟩

theorem witness_DeriveCommandIsDeriveContext :
    let s := fed (encodePacket (.derive k1) ++ [0x05])
    s.phase = .idle ∧ s.fault = false ∧ s.inp = encodePacket (.derive k1) ++ [0x05] := ⟨rfl, rfl, rfl⟩

/-- A block with a Context, fed the MAC of a message of 192 bytes. -/
def fedMac (m : List Byte) : State :=
  (loaded k1).hostSend (encodePacket (.mac n1 (BitVec.ofNat 64 m.length) m) ++ [])

theorem witness_MacCommandIsComputeTag :
    (fedMac (seqBytes 192)).phase = .idle ∧ (fedMac (seqBytes 192)).fault = false ∧
    (fedMac (seqBytes 192)).ctxValid = true ∧
    (seqBytes 192).length = (BitVec.ofNat 64 (seqBytes 192).length).toNat ∧
    192 ≤ (BitVec.ofNat 64 (seqBytes 192).length).toNat ∧
    (fedMac (seqBytes 192)).inp =
      encodePacket (.mac n1 (BitVec.ofNat 64 (seqBytes 192).length) (seqBytes 192)) ++ [] :=
  ⟨rfl, rfl, rfl, by decide +kernel, by decide +kernel, rfl⟩

theorem witness_RejectedMacLeavesTheBlockAsItWas :
    ((fedMac (seqBytes 191)).sound = true ∧ (fedMac (seqBytes 191)).phase = .idle ∧
      (fedMac (seqBytes 191)).ctxValid = true ∧ (BitVec.ofNat 64 (seqBytes 191).length).toNat < 192 ∧
      (seqBytes 191).length = (BitVec.ofNat 64 (seqBytes 191).length).toNat) ∧
    ((fed (encodePacket (.mac n1 0 []) ++ [])).sound = true ∧
      (fed (encodePacket (.mac n1 0 []) ++ [])).ctxValid = false) := by decide +kernel

theorem witness_CommandIsItsAtomicEffect :
    (fedMac (seqBytes 192)).phase = .idle ∧ (fedMac (seqBytes 192)).fault = false ∧
    Instr.wf (.mac n1 (BitVec.ofNat 64 (seqBytes 192).length) (seqBytes 192)) = true ∧
    Instr.onStream (.mac n1 (BitVec.ofNat 64 (seqBytes 192).length) (seqBytes 192)) = true :=
  ⟨rfl, rfl, by decide +kernel, rfl⟩

theorem witness_TagDependsOnKeyNonceMessageOnly :
    let s := fed (encodePacket (.derive k1) ++ (encodePacket (.mac n1 192 (seqBytes 192)) ++ []))
    s.phase = .idle ∧ s.fault = false ∧ (seqBytes 192).length = (192 : BitVec 64).toNat ∧
      192 ≤ (192 : BitVec 64).toNat ∧
      s.inp = encodePacket (.derive k1) ++ (encodePacket (.mac n1 192 (seqBytes 192)) ++ []) :=
  ⟨rfl, rfl, by decide +kernel, by decide, rfl⟩

theorem witness_EveryRunComesToRest :
    (fed [0x03]).phase = .idle ∧ State.reset.waiting = true := by decide

/-! ## Work (R186) -/

/-- The counts that R186 gives for `L = 192`, and the greatest `nfull`. -/
theorem test_work_of_192 : commandWork (.mac n1 192 []) true = ⟨20, 166, 0⟩ ∧
    nfull (2 ^ 64 - 1) = 2 ^ 58 - 1 := by decide +kernel

/-- The other lines of the table of R186. -/
theorem test_work_table : commandWork (.derive k1) false = ⟨30, 290, 3⟩ ∧
    commandWork (.mac n1 191 []) true = ⟨1, 0, 0⟩ ∧ commandWork (.mac n1 192 []) false = ⟨1, 0, 0⟩ ∧
    commandWork (.illegal 0x03) true = ⟨0, 0, 0⟩ := by decide +kernel

/-- CTX.FK2 encrypts once and expands once. -/
theorem test_work_of_fk2 : rowWork .ctxFk2 beforeFk2 = ⟨1, 10, 1⟩ := by decide +kernel

end Sys2Proof.Tests
end

section
/-! PROOF SUPPORT. The runs of whole commands: a DERIVE and an accepted MAC, taken step by step from
any state that waits in IDLE, end in the state that the command taken as one step gives. -/

namespace Sys2Proof.Machine

/-! ## Accepting the packet at the head of `IN` (R51, R52, R140) -/

@[simp] theorem decodePacket_encodeDerive (key : Word) (rest : List Byte) :
    decodePacket (encodePacket (.derive key) ++ rest) = .ok (.derive key, rest) := by
  simp [encodePacket, encode, codeBytes, encodeDerive, decodePacket, wordOfBytes_wordBytes]

/-- The three operands of a MAC packet stand one after the other behind the opcode (R52). -/
theorem decodePacket_encodeMac (nonce : Word) {len : BitVec 64} {msg : List Byte}
    (rest : List Byte) (h : msg.length = len.toNat) :
    decodePacket (encodePacket (.mac nonce len msg) ++ rest) = .ok (.mac nonce len msg, rest) := by
  have hbody :
      (wordBytes nonce ++ (leBytes 8 len.toNat ++ (msg ++ rest))).drop 24 = msg ++ rest := by
    rw [← List.append_assoc]
    exact List.drop_left' (by simp)
  simp [encodePacket, encode, codeBytes, encodeMac, decodePacket, wordOfBytes_wordBytes,
    leNat_leBytes_len, ← List.drop_drop, hbody, h, List.take_left' h, List.drop_left' h,
    show ¬ 16 + (8 + (len.toNat + rest.length)) < 24 by omega,
    show ¬ 16 + (8 + (len.toNat + rest.length)) < 24 + len.toNat by omega]

theorem step_accepts_derive {s : State} {key : Word} {rest : List Byte} (hp : s.phase = .idle)
    (hf : s.fault = false) (hin : s.inp = encodePacket (.derive key) ++ rest) :
    step s = .next (s.acceptDerive key) := by
  rw [step, fetch_of_packet hp (hin ▸ decodePacket_encodeDerive key rest)]
  simp [exec, execDerive, hf]

theorem step_accepts_mac {s : State} {nonce : Word} {len : BitVec 64} {msg rest : List Byte}
    (hp : s.phase = .idle) (hf : s.fault = false) (hlen : msg.length = len.toNat)
    (hin : s.inp = encodePacket (.mac nonce len msg) ++ rest) :
    step s = .next (s.acceptMac nonce len msg) := by
  rw [step, fetch_of_packet hp (hin ▸ decodePacket_encodeMac nonce rest hlen)]
  simp [exec, execMac, hf]

/-! ## Rows and chains of steps -/

/-- A state put into a phase other than IDLE runs that phase's row (R144). -/
theorem step_setPhase (s : State) {p : Phase} (hp : p ≠ .idle) :
    step (s.setPhase p) = exec (phaseInstr p) (s.setPhase p) :=
  step_of_phase rfl hp

/-- A family of states, each stepping to the one after it, is run through from its first to any of
its later states. -/
theorem run_chain (f : Nat → State) (m : Nat) (h : ∀ n < m, step (f n) = .next (f (n + 1))) :
    Sys2Proof.core.run m (f 0) = .next (f m) := by
  induction m with
  | zero => rfl
  | succ m ih =>
    rw [run_add m 1 (ih fun n hn => h n (by omega)), run_succ 0 (h m (by omega)), run_zero]

/-! ## DERIVE: the twenty-seven counter words and the two schedules (R101 to R106) -/

/-- A store of words, the first `n` of which have been written with the values of `w`. -/
def filled {m : Nat} (w : Nat → Word) (v : Vector (Option Word) m) (n : Nat) :
    Vector (Option Word) m :=
  Vector.ofFn fun j => if j.val < n then some (w j) else v[j]

theorem filled_getElem {m : Nat} (w : Nat → Word) (v : Vector (Option Word) m) (n j : Nat)
    (hj : j < m) : (filled w v n)[j] = if j < n then some (w j) else v[j] := by
  simp [filled]

@[simp] theorem filled_zero {m : Nat} (w : Nat → Word) (v : Vector (Option Word) m) :
    filled w v 0 = v := by
  simp [filled]

/-- Writing the next word fills one word more; past the end of the store nothing is written. -/
theorem filled_succ {m : Nat} (w : Nat → Word) (v : Vector (Option Word) m) (n : Nat) :
    (filled w v n).setIfInBounds n (some (w n)) = filled w v (n + 1) := by
  refine Vector.ext fun j hj => ?_
  rw [Vector.getElem_setIfInBounds, filled_getElem, filled_getElem]
  obtain hlt | rfl | hgt := lt_trichotomy j n
  · rw [if_neg (by omega), if_pos hlt, if_pos (by omega)]
  · rw [if_pos rfl, if_pos (by omega)]
  · rw [if_neg (by omega), if_neg (by omega), if_neg (by omega)]

/-- A store that has been filled to its end holds the values of `w` alone. -/
theorem filled_of_le {m n : Nat} (w : Nat → Word) (v : Vector (Option Word) m) (h : m ≤ n) :
    filled w v n = (Vector.ofFn fun j : Fin m => w j).map some := by
  refine Vector.ext fun j hj => ?_
  rw [filled_getElem, if_pos (by omega)]
  simp

/-- The Context slot once the words of the counters below `n` have been made under `ki`. -/
def State.wordsMade (s : State) (ki : Vector Word 11) (n : Nat) : State :=
  { s with
    ctxInit := filled (derivedWord ki) s.ctxInit n
    ctxPool := filled (fun k => derivedWord ki (k + 9)) s.ctxPool (n - 9) }

/-- CTX.INIT's write makes the word of its counter (R102). -/
theorem wordsMade_writeInit (s : State) (ki : Vector Word 11) {n : Nat} (h : n ≤ 8) :
    (s.wordsMade ki n).writeInit n (derivedWord ki n) = s.wordsMade ki (n + 1) := by
  simp only [State.wordsMade, State.writeInit, filled_succ, show n - 9 = 0 by omega,
    show n + 1 - 9 = 0 by omega]

/-- CTX.POOL's write makes the word of its counter (R103). -/
theorem wordsMade_writePool (s : State) (ki : Vector Word 11) {n : Nat} (h : 9 ≤ n) :
    (s.wordsMade ki n).writePool n (derivedWord ki n) = s.wordsMade ki (n + 1) := by
  obtain ⟨k, rfl⟩ := Nat.exists_eq_add_of_le' h
  simp only [State.wordsMade, State.writePool, if_pos h, Nat.add_sub_cancel,
    show k + 9 + 1 - 9 = k + 1 by omega,
    filled_succ (fun k => derivedWord ki (k + 9)), filled_of_le _ _ h,
    filled_of_le _ _ (Nat.le_succ_of_le h)]

/-- The words of the counters below 27, with the two finalization schedules, are the Context of the
key (R106). -/
theorem wordsMade_storeContext (s : State) (key : Word) :
    ((s.wordsMade (expand key) 27).writeFk1 (expand (derivedWord (expand key) 27))).writeFk2
      (expand (derivedWord (expand key) 28)) = s.storeContext (deriveContext key) := by
  simp only [State.wordsMade, filled_of_le _ _ (show 9 ≤ 27 by omega),
    filled_of_le _ _ (show 18 ≤ 27 - 9 by omega)]
  rfl

/-- The row that makes the word of counter `n`, or CTX.FK1 after the last of them (R144). -/
def derivePhase (n : Nat) : Phase :=
  if n ≤ 8 then .ctxInit else if n ≤ 26 then .ctxPool else .ctxFk1

/-- A DERIVE in flight, its key expanded and the words of the counters below `n` made. -/
def State.deriving (s : State) (key : Word) (n : Nat) : State :=
  ((((s.latchKey key).writeKi (expand key)).wordsMade (expand key) n).setC n).setPhase
    (derivePhase n)

/-- CTX.KS makes the working schedule; no word of the Context is made yet (R101). -/
theorem step_ctxKs (s : State) (key : Word) :
    step ((s.latchKey key).setPhase .ctxKs) = .next (s.deriving key 0) := by
  rw [step_setPhase _ (by decide), State.deriving, State.wordsMade, filled_zero, filled_zero]
  rfl

/-- CTX.INIT and CTX.POOL make the word of their counter (R102, R103). -/
theorem step_deriving (s : State) (key : Word) {n : Nat} (h : n < 27) :
    step (s.deriving key n) = .next (s.deriving key (n + 1)) := by
  by_cases hn : n ≤ 8
  · have hp : (s.deriving key n).phase = .ctxInit := by simp [State.deriving, derivePhase, hn]
    have hnext : derivePhase (n + 1) = if n + 1 ≤ 8 then .ctxInit else .ctxPool := by
      simp [derivePhase, show n < 26 by omega]
    rw [step_of_phase hp (by decide), State.deriving, State.deriving, hnext,
      ← wordsMade_writeInit _ _ hn]
    rfl
  · have hp : (s.deriving key n).phase = .ctxPool := by
      simp [State.deriving, derivePhase, hn, show n ≤ 26 by omega]
    have hnext : derivePhase (n + 1) = if n + 1 ≤ 26 then .ctxPool else .ctxFk1 := by
      simp [derivePhase, show ¬ n + 1 ≤ 8 by omega]
    rw [step_of_phase hp (by decide), State.deriving, State.deriving, hnext,
      ← wordsMade_writePool _ _ (by omega)]
    rfl

/-- A DERIVE in flight whose first finalization schedule is made as well. -/
def State.derivingFk2 (s : State) (key : Word) : State :=
  (((s.deriving key 27).writeFk1 (expand (derivedWord (expand key) 27))).setC 28).setPhase .ctxFk2

/-- CTX.FK1 makes the first finalization schedule (R104). -/
theorem step_derivingFk1 (s : State) (key : Word) :
    step (s.deriving key 27) = .next (s.derivingFk2 key) :=
  step_setPhase _ (by decide)

/-- CTX.FK2 makes the second, publishes the Context and answers (R105). -/
theorem step_derivingFk2 (s : State) (key : Word) :
    step (s.derivingFk2 key) =
      .next ((((s.storeContext (deriveContext key)).setCtxValid).emit [statusOk]).endDerive) := by
  have hki : (s.derivingFk2 key).readKi = expand key := rfl
  have hstep : step (s.derivingFk2 key) = execCtxFk2 (s.derivingFk2 key) :=
    step_setPhase _ (by decide)
  rw [hstep, execCtxFk2, hki, ← wordsMade_storeContext]
  -- The sides differ in stores that the end of the command drops: latch, schedule, counter, phase.
  simp only [State.derivingFk2, State.deriving, State.wordsMade, State.writeFk1, State.writeFk2,
    State.writeKi, State.latchKey, State.setC, State.setPhase, State.setCtxValid, State.emit,
    State.endDerive]

/-- R141, R145: a DERIVE run step by step is the command taken as one step. -/
theorem run_derive {s : State} {key : Word} {rest : List Byte} (hp : s.phase = .idle)
    (hf : s.fault = false) (hin : s.inp = encodePacket (.derive key) ++ rest) :
    Sys2Proof.core.run 31 s = .next (commandEffect (.derive key) s) := by
  have haccept : s.acceptDerive key = ((s.consume 17).latchKey key).setPhase .ctxKs := rfl
  rw [run_succ 30 (step_accepts_derive hp hf hin), haccept, run_succ 29 (step_ctxKs _ key),
    run_add 27 2 (run_chain (s.consume 17 |>.deriving key) 27 fun n hn => step_deriving _ key hn),
    run_succ 1 (step_derivingFk1 _ key), run_succ 0 (step_derivingFk2 _ key)]
  rfl

/-! ## The absorption: every round is the one formula (R112 to R120) -/

/-- One absorption round by the one formula of R120, as round `t` of the message latched. -/
def State.uniformAbsorb (s : State) (t : Nat) : State :=
  s.absorbRound (s.mw (4 * t)) (s.mw (4 * t + 1)) (s.mw (4 * t + 2)) (s.mw (4 * t + 3))
    (s.fullTap (4 * t))

/-- The register and the tap history after the first `n` rounds of the message latched. -/
def State.absorbed (s : State) (n : Nat) : State :=
  (s.writeX (absorbRounds Config.params s.context.init s.readMsg n)).writeHist
    (historyAfter s.readMsg n)

/-- Round `n` after the first `n` rounds makes the first `n + 1` (R122). -/
theorem absorbed_uniformAbsorb (s : State) (n t : Nat) (p : Phase) :
    (((s.absorbed n).setT t).setPhase p).uniformAbsorb n =
      (((s.absorbed (n + 1)).setT t).setPhase p) := rfl

theorem mw_of_neg (s : State) {i : Int} (h : i < 0) : s.mw i = zeroWord :=
  mw_outside _ _ (.inl h)

/-- Behind the padding block there is no message word (R35, R37). -/
theorem mw_of_padIndex_lt {s : State} (hP : s.padIndex = nfull s.readMsg.length) {i : Int}
    (h : 4 * ((s.padIndex : Int) + 1) ≤ i) : s.mw i = zeroWord :=
  mw_outside _ _ (.inr (hP ▸ h))

theorem execAuWarmup1_eq (s : State) :
    execAuWarmup1 s = .next (((s.uniformAbsorb 0).setT 1).setPhase .auWarmup2) := by
  have htap : s.fullTap 0 = zeroWord := by
    simp [State.fullTap, mw_of_neg]
  simp [execAuWarmup1, State.uniformAbsorb, htap]

theorem execAuWarmup2_eq (s : State) :
    execAuWarmup2 s = .next (((s.uniformAbsorb 1).setT 2).setPhase .auWarmup3) := by
  have htap : s.fullTap 4 = s.mw 1 := by
    simp [State.fullTap, mw_of_neg]
  simp [execAuWarmup2, State.uniformAbsorb, htap]

theorem execAuWarmup3_eq (s : State) :
    execAuWarmup3 s = .next (((s.uniformAbsorb 2).setT 3).setPhase
      (if 3 < s.padIndex then .auSteady else .auPad)) := by
  have htap : s.fullTap 8 = s.mw 5 ^^^ s.mw 2 ^^^ s.mw 1 := by
    simp [State.fullTap, mw_of_neg]
  simp [execAuWarmup3, State.uniformAbsorb, htap]

theorem execAuSteady_eq (s : State) :
    execAuSteady s = .next (((s.uniformAbsorb s.readT).setT (s.readT + 1)).setPhase
      (if s.readT + 1 < s.padIndex then .auSteady else .auPad)) := rfl

theorem execAuPad_eq (s : State) :
    execAuPad s = .next (((s.uniformAbsorb s.padIndex).setT (s.readT + 1)).setPhase .auDrain1) :=
  rfl

/-- A round behind the padding block takes a zero block. -/
theorem uniformAbsorb_drain {s : State} (hP : s.padIndex = nfull s.readMsg.length) {t : Nat}
    (ht : s.padIndex < t) :
    s.uniformAbsorb t = s.absorbRound zeroWord zeroWord zeroWord zeroWord (s.fullTap (4 * t)) := by
  rw [State.uniformAbsorb]
  repeat rw [mw_of_padIndex_lt hP (by omega)]

theorem execAuDrain1_eq {s : State} (hP : s.padIndex = nfull s.readMsg.length) :
    execAuDrain1 s =
      .next (((s.uniformAbsorb (s.padIndex + 1)).setT (s.readT + 1)).setPhase .auDrain2) := by
  have htap : s.fullTap (4 * (s.padIndex + 1 : Nat)) =
      s.mw (4 * s.padIndex + 1) ^^^ s.mw (4 * s.padIndex - 2) ^^^ s.mw (4 * s.padIndex - 3) ^^^
        s.mw (4 * s.padIndex - 6) := by
    rw [show (4 * (s.padIndex + 1 : Nat) : Int) = 4 * s.padIndex + 4 by omega, State.fullTap]
    ring_nf
  rw [uniformAbsorb_drain hP (by omega), execAuDrain1, htap]

/-- The newest of the four tap words lies behind the message. -/
theorem execAuDrain2_eq {s : State} (hP : s.padIndex = nfull s.readMsg.length) :
    execAuDrain2 s =
      .next (((s.uniformAbsorb (s.padIndex + 2)).setT (s.readT + 1)).setPhase .auDrain3) := by
  have htap : s.fullTap (4 * (s.padIndex + 2 : Nat)) =
      s.mw (4 * s.padIndex + 2) ^^^ s.mw (4 * s.padIndex + 1) ^^^ s.mw (4 * s.padIndex - 2) := by
    rw [show (4 * (s.padIndex + 2 : Nat) : Int) = 4 * s.padIndex + 8 by omega, State.fullTap,
      mw_of_padIndex_lt hP (i := _ - 3) (by omega), BitVec.zero_xor]
    ring_nf
  rw [uniformAbsorb_drain hP (by omega), execAuDrain2, htap]

/-- Of the four tap words only the second newest lies inside the message. -/
theorem execAuDrain3_eq {s : State} (hP : s.padIndex = nfull s.readMsg.length) :
    execAuDrain3 s = .next ((s.uniformAbsorb (s.padIndex + 3)).setPhase .finNonce) := by
  have htap : s.fullTap (4 * (s.padIndex + 3 : Nat)) = s.mw (4 * s.padIndex + 2) := by
    rw [show (4 * (s.padIndex + 3 : Nat) : Int) = 4 * s.padIndex + 12 by omega, State.fullTap,
      mw_of_padIndex_lt hP (i := _ - 3) (by omega), mw_of_padIndex_lt hP (i := _ - 6) (by omega),
      mw_of_padIndex_lt hP (i := _ - 7) (by omega)]
    simp only [BitVec.zero_xor]
    ring_nf
  rw [uniformAbsorb_drain hP (by omega), execAuDrain3, htap]

/-- The row of round `n` of a message whose padding block is block `P` (R144). -/
def roundPhase (P n : Nat) : Phase :=
  if n = 0 then .auWarmup1 else if n = 1 then .auWarmup2 else if n = 2 then .auWarmup3
  else if n < P then .auSteady else if n = P then .auPad else if n = P + 1 then .auDrain1
  else if n = P + 2 then .auDrain2 else .auDrain3

theorem roundPhase_steady {P n : Nat} (h3 : 3 ≤ n) (hn : n < P) : roundPhase P n = .auSteady := by
  grind [roundPhase]

theorem roundPhase_pad {P : Nat} (h3 : 3 ≤ P) : roundPhase P P = .auPad := by
  grind [roundPhase]

theorem roundPhase_drain1 {P : Nat} (h3 : 3 ≤ P) : roundPhase P (P + 1) = .auDrain1 := by
  grind [roundPhase]

theorem roundPhase_drain2 {P : Nat} (h3 : 3 ≤ P) : roundPhase P (P + 2) = .auDrain2 := by
  grind [roundPhase]

theorem roundPhase_drain3 (P : Nat) : roundPhase P (P + 3) = .auDrain3 := by
  simp [roundPhase]

theorem roundPhase_succ_of_lt {P n : Nat} (h2 : 2 ≤ n) (hn : n < P) :
    roundPhase P (n + 1) = if n + 1 < P then .auSteady else .auPad := by
  grind [roundPhase]

/-- A MAC in flight, the message latched and its first `n` rounds absorbed. -/
def State.atRound (s : State) (n : Nat) : State :=
  ((s.absorbed n).setT n).setPhase (roundPhase s.padIndex n)

/-- AU.LOAD takes the register before the first round (R121). -/
theorem step_auLoad (s : State) : step (s.setPhase .auLoad) = .next (s.atRound 0) :=
  step_of_phase (p := .auLoad) rfl (by decide)

/-- A row that is round `n` by the one formula, and names the phase of round `n + 1`, absorbs one
round more. -/
theorem step_atRound_of_exec {s : State} {n : Nat} {p q : Phase} (hp : p ≠ .idle)
    (hn : roundPhase s.padIndex n = p) (hn' : roundPhase s.padIndex (n + 1) = q)
    (hexec : exec (phaseInstr p) (s.atRound n) =
      .next ((((s.atRound n).uniformAbsorb n).setT (n + 1)).setPhase q)) :
    step (s.atRound n) = .next (s.atRound (n + 1)) := by
  rw [step_of_phase hn hp, hexec, State.atRound, absorbed_uniformAbsorb, State.atRound, hn']
  rfl

/-- Every round before the last absorbs its block and goes on to the next round (R112 to R118). -/
theorem step_atRound {s : State} (hP : s.padIndex = nfull s.readMsg.length) (h3 : 3 ≤ s.padIndex)
    {n : Nat} (hn : n < s.padIndex + 3) : step (s.atRound n) = .next (s.atRound (n + 1)) := by
  obtain rfl | rfl | rfl | ⟨h3n, hlt⟩ | rfl | rfl | rfl :
      n = 0 ∨ n = 1 ∨ n = 2 ∨ (3 ≤ n ∧ n < s.padIndex) ∨ n = s.padIndex ∨ n = s.padIndex + 1 ∨
        n = s.padIndex + 2 := by omega
  · exact step_atRound_of_exec (p := .auWarmup1) (by decide) rfl rfl (execAuWarmup1_eq _)
  · exact step_atRound_of_exec (p := .auWarmup2) (by decide) rfl rfl (execAuWarmup2_eq _)
  · exact step_atRound_of_exec (p := .auWarmup3) (by decide) rfl
      (roundPhase_succ_of_lt (by omega) h3) (execAuWarmup3_eq _)
  · exact step_atRound_of_exec (by decide) (roundPhase_steady h3n hlt)
      (roundPhase_succ_of_lt (by omega) hlt) (execAuSteady_eq _)
  · exact step_atRound_of_exec (by decide) (roundPhase_pad h3) (roundPhase_drain1 h3)
      (execAuPad_eq _)
  · exact step_atRound_of_exec (by decide) (roundPhase_drain1 h3) (roundPhase_drain2 h3)
      (execAuDrain1_eq hP)
  · exact step_atRound_of_exec (by decide) (roundPhase_drain2 h3) (roundPhase_drain3 _)
      (execAuDrain2_eq hP)

/-- AU.DRAIN3, the last round, leaves the digest in the register (R119, R123). -/
theorem step_auDrain3 {s : State} (hP : s.padIndex = nfull s.readMsg.length) :
    step (s.atRound (s.padIndex + 3)) = .next
      (((s.absorbed (s.padIndex + 4)).setT (s.padIndex + 3)).setPhase .finNonce) := by
  have hp : (s.atRound (s.padIndex + 3)).phase = .auDrain3 := roundPhase_drain3 _
  rw [step_of_phase hp (by decide)]
  exact execAuDrain3_eq hP

/-! ## The finalizer (R131 to R134) -/

/-- A MAC whose register holds the digest, after FIN.NONCE and the first `n` folds. -/
def State.folding (s : State) (n : Nat) : State :=
  ((s.writeT0 (foldedTo s.context s.readX s.readNonce n)).setI n).setPhase
    (if n ≤ 8 then .finFold else .finTag)

/-- FIN.NONCE whitens the nonce (R131). -/
theorem step_finNonce (s : State) : step (s.setPhase .finNonce) = .next (s.folding 0) :=
  step_of_phase (p := .finNonce) rfl (by decide)

/-- Each fold takes one digest word under its window of the pool (R132). -/
theorem step_folding (s : State) {n : Nat} (hn : n < 9) :
    step (s.folding n) = .next (s.folding (n + 1)) := by
  have hwindow : contextWindow s.context ⟨n, hn⟩ = s.window n := by
    simp [contextWindow, State.window, State.context]
  have hp : (s.folding n).phase = .finFold := by
    simp [State.folding, show n ≤ 8 by omega]
  rw [step_of_phase hp (by decide), State.folding, State.folding, foldedTo, dif_pos hn, hwindow,
    ← readRole_of_lt s n hn]
  rfl

/-- FIN.TAG answers the tag that `finalize` gives and ends the command (R133, R134). -/
theorem step_finTag (s : State) :
    step (s.folding 9) =
      .next ((s.emit (statusOk :: wordBytes (finalize s.context s.readX s.readNonce))).endMac) :=
  step_of_phase (p := .finTag) rfl (by decide)

/-! ## MAC (R142) -/

theorem computeTag_ok (ctx : Context) (nonce : Word) {m : Memory} (h : 192 ≤ m.length) :
    computeTag ctx nonce m = .ok (finalize ctx (absorb Config.params ctx.init m) nonce) :=
  if_neg (Nat.not_lt.mpr h)

theorem macCheckEvent_true {len : BitVec 64} (h : 192 ≤ len.toNat) :
    macCheckEvent true len = none := by
  obtain ⟨hv, _⟩ | ⟨_, hlt, _⟩ | ⟨_, _, hnone⟩ := macCheckEvent_cases true len
  · cases hv
  · omega
  · exact hnone

/-- MAC.CHECK lets a MAC with a Context and a long enough message on to the absorption (R143). -/
theorem step_macCheck {s : State} (hv : s.ctxValid = true) (h : 192 ≤ s.readLen.toNat) :
    step (s.setPhase .macCheck) = .next (s.setPhase .auLoad) := by
  have hcheck : macCheckEvent (s.setPhase .macCheck).ctxValid (s.setPhase .macCheck).readLen =
      none := (congrArg (macCheckEvent · s.readLen) hv).trans (macCheckEvent_true h)
  have hexec : step (s.setPhase .macCheck) = execMacCheck (s.setPhase .macCheck) :=
    step_setPhase _ (by decide)
  rw [hexec, execMacCheck, hcheck]
  rfl

/-- R142: from AU.LOAD to FIN.TAG a MAC runs `nfull + 16` micro-operations and answers the tag of
the operands latched, under the Context in the slot. -/
theorem run_fromLoad {s : State} (hlen : s.readMsg.length = s.readLen.toNat)
    (h : 192 ≤ s.readLen.toNat) :
    Sys2Proof.core.run (s.padIndex + 16) (s.setPhase .auLoad) =
      .next ((s.emit (statusOk :: wordBytes (finalize s.context
        (absorb Config.params s.context.init s.readMsg) s.readNonce))).endMac) := by
  have hP : s.padIndex = nfull s.readMsg.length := by rw [hlen, State.padIndex]
  have h3 : 3 ≤ s.padIndex := by simp only [State.padIndex, nfull]; omega
  rw [show s.padIndex + 16 = s.padIndex + 15 + 1 by omega, run_succ _ (step_auLoad s),
    show s.padIndex + 15 = (s.padIndex + 3) + 12 by omega,
    run_add _ 12 (run_chain s.atRound _ fun n hn => step_atRound hP h3 hn),
    run_succ 11 (step_auDrain3 hP), run_succ 10 (step_finNonce _),
    run_add 9 1 (run_chain (State.folding _) 9 fun n hn => step_folding _ hn),
    run_succ 0 (step_finTag _), run_zero, absorb, ← hP]
  rfl

/-- An accepted MAC taken as one step answers its tag (R142, R145). -/
theorem commandEffect_mac_ok {s : State} {nonce : Word} {len : BitVec 64} {msg : List Byte}
    {tag : Word} (hv : s.ctxValid = true) (ht : computeTag s.context nonce msg = .ok tag) :
    commandEffect (.mac nonce len msg) s =
      ((s.consume (25 + len.toNat)).emit (statusOk :: wordBytes tag)).endMac := by
  simp [commandEffect, hv, ht]

/-- R142, R145: an accepted MAC run step by step is the command taken as one step. -/
theorem run_mac {s : State} {nonce : Word} {len : BitVec 64} {msg rest : List Byte}
    (hp : s.phase = .idle) (hf : s.fault = false) (hv : s.ctxValid = true)
    (hlen : msg.length = len.toNat) (h : 192 ≤ len.toNat)
    (hin : s.inp = encodePacket (.mac nonce len msg) ++ rest) :
    Sys2Proof.core.run (len.toNat / 64 + 18) s = .next (commandEffect (.mac nonce len msg) s) := by
  have hrun := run_fromLoad (s := (s.latchMac nonce len msg).consume (25 + len.toNat)) hlen h
  have hcheck : step (s.acceptMac nonce len msg) =
      .next (((s.latchMac nonce len msg).consume (25 + len.toNat)).setPhase .auLoad) :=
    step_macCheck hv h
  rw [run_succ (len.toNat / 64 + 17) (step_accepts_mac hp hf hlen hin),
    run_succ (len.toNat / 64 + 16) hcheck, commandEffect_mac_ok hv (computeTag_ok _ _ (hlen ▸ h))]
  exact hrun

/-! ## DERIVE, then MAC (R1, R146) -/

/-- Whatever the slot held, a DERIVE leaves the Context of its key in it (R141). -/
theorem commandEffect_derive_context (s : State) (key : Word) :
    (commandEffect (.derive key) s).context = deriveContext key :=
  storeContext_context (s.consume 17) (deriveContext key)

theorem commandEffect_derive_inp {s : State} {key : Word} {rest : List Byte}
    (hin : s.inp = encodePacket (.derive key) ++ rest) :
    (commandEffect (.derive key) s).inp = rest := by
  have hdrop : (commandEffect (.derive key) s).inp = s.inp.drop 17 := rfl
  rw [hdrop, hin]
  exact List.drop_left' (encodeDerive_length key)

/-- Settles O59: the DERIVE leaves the Context of its key in the slot, whatever was there, and the
MAC answers the tag under that Context. -/
theorem tagDependsOnKeyNonceMessageOnly : Obligations.TagDependsOnKeyNonceMessageOnly := by
  intro s key nonce len msg rest hp hf hlen h hin
  obtain ⟨tag, htag⟩ : ∃ tag, macTag key nonce msg = .ok tag := ⟨_, computeTag_ok _ _ (hlen ▸ h)⟩
  have hinp := commandEffect_derive_inp hin
  have hctx : computeTag (commandEffect (.derive key) s).context nonce msg = .ok tag := by
    rw [commandEffect_derive_context]
    exact htag
  have hmac := run_mac (s := commandEffect (.derive key) s) rfl hf rfl hlen h hinp
  rw [commandEffect_mac_ok rfl hctx] at hmac
  have hrun := (run_add 31 _ (run_derive hp hf hin)).trans hmac
  rw [show 31 + (len.toNat / 64 + 18) = len.toNat / 64 + 49 by omega] at hrun
  refine ⟨tag, _, htag, hrun, ?_, ?_, rfl⟩
  · exact List.append_assoc s.out [statusOk] (statusOk :: wordBytes tag)
  · rw [endMac_inp, emit_inp, consume_inp, hinp]
    exact List.drop_left' (by rw [← hlen]; exact encodeMac_length nonce len msg)

end Sys2Proof.Machine
end

section
/-! PROOF SUPPORT. What one step can do, said once: the rows of the phases, grouped by the stores
they write. The rules of the whole machine (R11, R18, R20, R22) are read off the groups. -/

namespace Sys2Proof.Machine

/-! ## The row of a step -/

/-- In IDLE the row that the head of `IN` selects is command acceptance (R140). -/
theorem step_idle {s : State} (hp : s.phase = .idle) : step s = .next s.acceptCommand := by
  rw [step]
  cases hd : decodePacket s.inp with
  | error e => rw [fetch_of_stop hp hd]; rfl
  | ok r =>
    obtain ⟨i, rest⟩ := r
    rw [fetch_of_packet hp hd]
    obtain ⟨_, _, _, rfl, _⟩ | ⟨_, _, _, _, _, rfl, _⟩ | ⟨_, _, _, _, rfl⟩ := decodePacket_cases hd
    · simp [exec, execDerive, State.acceptCommand, hd]
    · simp [exec, execMac, State.acceptCommand, hd]
    · simp [exec, execIllegal, State.acceptCommand, hd]

/-- In every phase, IDLE included, a step is the phase's own row (R144). -/
theorem step_eq_exec_phase (s : State) : step s = exec (phaseInstr s.phase) s := by
  by_cases hp : s.phase = .idle
  · rw [step_idle hp, hp]; rfl
  · exact step_of_phase rfl hp

/-- Everything a step can do to a state, by the stores it writes: acceptance in IDLE, the rows of a
DERIVE up to its last, the publication of the Context, the check of a MAC, its working rows, its
answer, and the halt. -/
inductive StepEffect (s : State) : State → Prop
  | wait : s.phase = .idle → s.fault = true ∨ (∃ e, decodePacket s.inp = .error e) → StepEffect s s
  | acceptDerive {key : Word} {rest : List Byte} : s.phase = .idle →
      decodePacket s.inp = .ok (.derive key, rest) → StepEffect s (s.acceptDerive key)
  | acceptMac {nonce : Word} {len : BitVec 64} {msg rest : List Byte} : s.phase = .idle →
      decodePacket s.inp = .ok (.mac nonce len msg, rest) → StepEffect s (s.acceptMac nonce len msg)
  | acceptIllegal {b : Byte} {rest : List Byte} : s.phase = .idle →
      decodePacket s.inp = .ok (.illegal b, rest) → StepEffect s s.acceptIllegal
  | expandKey {ki c p} : s.phase = .ctxKs → StepEffect s { s with ki := ki, c := c, phase := p }
  | makeContext {init pool fk1 c p} : s.phase ∈ [.ctxInit, .ctxPool, .ctxFk1] →
      StepEffect s { s with ctxInit := init, ctxPool := pool, ctxFk1 := fk1, c := c, phase := p }
  | publish {sched : Vector Word 11} : s.phase = .ctxFk2 →
      StepEffect s ((((s.writeFk2 sched).setCtxValid).emit [statusOk]).endDerive)
  | pass : s.phase = .macCheck → StepEffect s (s.setPhase .auLoad)
  | reject {e : Event} : s.phase = .macCheck → e ≠ .illegalCommand →
      StepEffect s (((s.emit [eventCode e]).dropMacLatches).setPhase .idle)
  | workMac {x t0 hist t i p} :
      s.phase ∈ [.auLoad, .auWarmup1, .auWarmup2, .auWarmup3, .auSteady, .auPad, .auDrain1,
        .auDrain2, .auDrain3, .finNonce, .finFold] →
      StepEffect s { s with x := x, t0 := t0, hist := hist, t := t, i := i, phase := p }
  | answer {tag : Word} : s.phase = .finTag →
      StepEffect s ((s.emit (statusOk :: wordBytes tag)).endMac)
  | halt : s.phase = .faultHalt → StepEffect s s

/-- Acceptance is one of the five groups that begin in IDLE (R140). -/
theorem stepEffect_acceptCommand {s : State} (hp : s.phase = .idle) :
    StepEffect s s.acceptCommand := by
  obtain ⟨hf, h⟩ | ⟨_, he, h⟩ | ⟨_, _, _, hd, h⟩ | ⟨_, _, _, _, _, hd, h⟩ | ⟨_, _, _, hd, h⟩ :=
    acceptCommand_cases s <;> rw [h]
  · exact .wait hp (.inl hf)
  · exact .wait hp (.inr he)
  · exact .acceptDerive hp hd
  · exact .acceptMac hp hd
  · exact .acceptIllegal hp hd

/-- The answer of MAC.CHECK is one of its two errors, or the MAC goes on (R143). -/
theorem execMacCheck_cases (s : State) :
    (∃ e, e ≠ .illegalCommand ∧ execMacCheck s =
      .next (((s.emit [eventCode e]).dropMacLatches).setPhase .idle)) ∨
    (s.ctxValid = true ∧ 192 ≤ s.readLen.toNat ∧ execMacCheck s = .next (s.setPhase .auLoad)) := by
  obtain ⟨_, h⟩ | ⟨_, _, h⟩ | ⟨hv, hlen, h⟩ := macCheckEvent_cases s.ctxValid s.readLen
  · exact .inl ⟨.noContext, by decide, by rw [execMacCheck, h]; rfl⟩
  · exact .inl ⟨.shortMessage, by decide, by rw [execMacCheck, h]; rfl⟩
  · exact .inr ⟨hv, hlen, by rw [execMacCheck, h]⟩

/-- Every step is of one of the groups (R140, R144). -/
theorem step_effect {s t : State} (h : step s = .next t) : StepEffect s t := by
  rw [step_eq_exec_phase] at h
  cases hp : s.phase <;> rw [hp] at h
  case idle => cases h; exact stepEffect_acceptCommand hp
  case ctxKs => cases h; exact .expandKey hp
  case ctxInit => cases h; exact .makeContext (by simp [hp])
  case ctxPool => cases h; exact .makeContext (by simp [hp])
  case ctxFk1 => cases h; exact .makeContext (by simp [hp])
  case ctxFk2 => cases h; exact .publish hp
  case macCheck =>
    obtain ⟨e, he, hc⟩ | ⟨_, _, hc⟩ := execMacCheck_cases s
    · cases hc.symm.trans h; exact .reject hp he
    · cases hc.symm.trans h; exact .pass hp
  case finTag => cases h; exact .answer hp
  case faultHalt => cases h; exact .halt hp
  -- AU.LOAD, the eight rounds, FIN.NONCE and FIN.FOLD.
  all_goals cases h; exact .workMac (by simp [hp])

/-! ## The rules of the whole machine -/

/-- Settles O50: among the groups of rows only the two that a premise excludes write the slot. -/
theorem onlyDeriveWritesTheContext : Obligations.OnlyDeriveWritesTheContext := by
  intro s t h hp
  cases step_effect h with
  | makeContext hph => simp only [List.mem_cons, List.not_mem_nil] at hp hph; tauto
  | publish hph => simp [hph] at hp
  | _ => exact ⟨rfl, rfl, rfl, rfl⟩

/-- Outside CTX.FK2 and the acceptance of an illegal opcode, a step that leaves the flags is as R20
says. -/
theorem flags_of_kept {s t : State} (hv : t.ctxValid = s.ctxValid) (hf : t.fault = s.fault)
    (hfk2 : s.phase ≠ .ctxFk2)
    (hill : s.phase = .idle →
      s.fault = true ∨ ∀ b rest, decodePacket s.inp ≠ .ok (.illegal b, rest)) :
    t.ctxValid = (s.ctxValid || s.phase == .ctxFk2) ∧
    (t.fault = true ↔ s.fault = true ∨
      (s.phase = .idle ∧ ∃ b rest, decodePacket s.inp = .ok (.illegal b, rest))) := by
  have hbeq : (s.phase == .ctxFk2) = false := by simpa using hfk2
  rw [hv, hf, hbeq, Bool.or_false]
  refine ⟨rfl, .inl, ?_⟩
  rintro (hfault | ⟨hidle, b, rest, hd⟩)
  · exact hfault
  · exact (hill hidle).resolve_right fun hno => hno b rest hd

/-- Settles O51: the publication sets `CTX_VALID`, an accepted illegal opcode sets `FAULT`, and
every other group of rows leaves the flags. -/
theorem flagsChangeOnlyWhereSaid : Obligations.FlagsChangeOnlyWhereSaid := by
  intro s t h
  cases step_effect h with
  | wait hp hno =>
    refine flags_of_kept rfl rfl (by simp [hp]) fun _ => hno.imp_right ?_
    rintro ⟨e, he⟩ b rest hd
    cases he.symm.trans hd
  | acceptDerive hp hd => exact flags_of_kept rfl rfl (by simp [hp]) (by simp [hd])
  | acceptMac hp hd => exact flags_of_kept rfl rfl (by simp [hp]) (by simp [hd])
  | acceptIllegal hp hd => simp [State.acceptIllegal, State.raise, hp, hd]
  | publish hp => simp [hp]
  | expandKey hp | pass hp | reject hp | answer hp | halt hp =>
    exact flags_of_kept rfl rfl (by simp [hp]) (by simp [hp])
  | makeContext hp | workMac hp =>
    exact flags_of_kept rfl rfl (by rintro h; simp [h] at hp) (by rintro h; simp [h] at hp)

/-- Settles O52: acceptance alone removes bytes of `IN`, and every answer is appended to `OUT`. -/
theorem streamsMoveOneWay : Obligations.StreamsMoveOneWay := by
  intro s t h
  cases step_effect h with
  | acceptDerive hp => exact ⟨⟨_, rfl⟩, ⟨[], by simp [State.acceptDerive]⟩, absurd hp⟩
  | acceptMac hp => exact ⟨⟨_, rfl⟩, ⟨[], by simp [State.acceptMac]⟩, absurd hp⟩
  | acceptIllegal hp => exact ⟨⟨1, rfl⟩, ⟨_, rfl⟩, absurd hp⟩
  | publish | reject | answer => exact ⟨⟨0, rfl⟩, ⟨_, rfl⟩, fun _ => rfl⟩
  | _ => exact ⟨⟨0, rfl⟩, ⟨[], (List.append_nil _).symm⟩, fun _ => rfl⟩

/-- Settles O54: the latches are written by acceptance, which starts in IDLE, and by the ends of
commands, which lead to IDLE. -/
theorem operandsStayWhileACommandRuns : Obligations.OperandsStayWhileACommandRuns := by
  intro s t h hs ht
  cases step_effect h with
  | wait hp | acceptDerive hp | acceptMac hp | acceptIllegal hp => exact absurd hp hs
  | publish | reject | answer => exact absurd rfl ht
  | _ => exact ⟨rfl, rfl, rfl, rfl, fun _ => rfl⟩

/-- Settles O35: the four rows that accept a command ask for `FAULT` first. -/
theorem faultBlocksEveryCommand : Obligations.FaultBlocksEveryCommand := by
  rintro s i hf (hstream | rfl)
  · cases i with
    | derive key => simp [exec, execDerive, hf]
    | mac nonce len msg => simp [exec, execMac, hf]
    | illegal b => simp [exec, execIllegal, hf]
    | _ => cases hstream
  · simp [exec, execIdle, State.acceptCommand, hf]

/-! ## The tap history (R21) -/

/-- A round moves the older words of the history four places on. -/
theorem shiftHist_getElem_old (h : Vector Word 10) (m0 m1 m2 m3 : Word) (k : Nat) (hk : k < 6) :
    (shiftHist h m0 m1 m2 m3)[k + 4] = h[k] := by
  interval_cases k <;> rfl

/-- Word `k` of the history after `n` rounds is the message word `k + 1` places back from block `n`:
a round puts its own block in front of the older words. -/
theorem historyAfter_getElem (m : Memory) (n k : Nat) (hk : k < 10) :
    (historyAfter m n)[k] = mw m (4 * (n : Int) - 1 - k) := by
  induction n generalizing k with
  | zero => rw [mw_outside m _ (.inl (by omega))]; simp [historyAfter]
  | succ n ih =>
    rw [show 4 * ((n + 1 : Nat) : Int) - 1 - k = 4 * n + 3 - k by omega]
    obtain hnew | ⟨j, rfl⟩ : k < 4 ∨ ∃ j, k = j + 4 :=
      (lt_or_ge k 4).imp_right fun h => Nat.exists_eq_add_of_le' h
    · interval_cases k <;> simp only [historyAfter, shiftHist] <;>
        exact congrArg (mw m) (by omega)
    · rw [historyAfter, shiftHist_getElem_old _ _ _ _ _ j (by omega), ih j (by omega)]
      exact congrArg (mw m) (by omega)

/-- Settles O19: the tap is made of the words 2, 5, 6 and 9 of the history. -/
theorem tapHistoryGivesTheTap : Obligations.TapHistoryGivesTheTap := by
  refine fun m n => ⟨historyAfter_getElem m n, ?_⟩
  rw [historyTap]
  simp only [historyAfter_getElem, sub_sub]
  rfl

/-! ## Reset and the host (R22, R23, R180) -/

/-- Settles O44. -/
theorem resetLeavesTheStateOfR23 : Obligations.ResetLeavesTheStateOfR23 := by
  intro s
  have hwait : step State.reset = .next State.reset := step_idle rfl
  refine ⟨_, rfl, rfl, rfl, rfl, rfl, rfl, rfl, rfl, ?_, ?_, rfl, rfl, rfl, rfl, rfl, rfl, rfl, rfl,
    rfl, rfl, rfl, rfl, hwait⟩
  · exact fun j hj => by simp [State.hostReset, State.reset, hj]
  · exact fun k hk => by simp [State.hostReset, State.reset, hk]

/-- Settles O45: in IDLE with `CTX_VALID` 0 the invariants ask only that every working store be
without value. -/
theorem resetIsSound : Obligations.ResetIsSound := by
  refine ⟨rfl, fun hv => ?_⟩
  cases hv

/-- Settles O48: the two invariants do not look at the streams, and reset has them. -/
theorem hostKeepsSound : Obligations.HostKeepsSound :=
  fun _ _ _ hs hf => ⟨⟨hs, hf⟩, ⟨hs, hf⟩, resetIsSound⟩

end Sys2Proof.Machine
end

section
/-! PROOF SUPPORT. The invariant of the sequencer: what each phase asks of the stores, what a row
leaves of it, and that every step keeps it. -/

namespace Sys2Proof.Machine

/-! ## The invariant, clause by clause -/

theorem sound_iff (s : State) :
    s.sound = true ↔ s.staged = true ∧ (s.ctxValid = true → s.contextWritten = true) ∧
      (s.fault = true ↔ s.phase = .faultHalt) := by
  unfold State.sound
  cases s.ctxValid <;> cases s.fault <;> simp [and_assoc]

/-- A row that leaves the flags, loses no word of a whole Context and does not lead to FAULT_HALT
keeps the invariant as soon as the next phase finds its stores. -/
theorem sound_of_flags_kept {s t : State} (hs : s.sound = true) (hp : s.phase ≠ .faultHalt)
    (hp' : t.phase ≠ .faultHalt) (hstaged : t.staged = true) (hv : t.ctxValid = s.ctxValid)
    (hf : t.fault = s.fault) (hctx : s.contextWritten = true → t.contextWritten = true) :
    t.sound = true := by
  obtain ⟨_, hslot, hfault⟩ := (sound_iff s).1 hs
  refine (sound_iff t).2 ⟨hstaged, fun h => hctx (hslot (hv ▸ h)), ?_⟩
  rw [hf, hfault]
  exact iff_of_false hp hp'

/-- No command has left a store behind: what IDLE and FAULT_HALT ask. -/
theorem staged_idle {s : State} (hp : s.phase = .idle ∨ s.phase = .faultHalt) :
    s.staged = true ↔ s.noDerive = true ∧ s.noMacLatch = true ∧ s.noMacWork = true := by
  obtain hp | hp := hp <;> simp [State.staged, hp, and_assoc]

theorem noDerive_iff (s : State) :
    s.noDerive = true ↔ s.key.isNone = true ∧ s.ki.isNone = true ∧ s.c.isNone = true := by
  simp [State.noDerive, and_assoc]

/-! ## The words of the slot -/

theorem initTo_iff (s : State) (n : Nat) :
    s.initTo n = true ↔ ∀ j < n, (s.ctxInit[j]?.getD none).isSome = true := by
  simp [State.initTo]

theorem poolTo_iff (s : State) (n : Nat) :
    s.poolTo n = true ↔ ∀ k < n, (s.ctxPool[k]?.getD none).isSome = true := by
  simp [State.poolTo]

/-- A write leaves no word without value that held one. -/
theorem isSome_setIfInBounds {m : Nat} (v : Vector (Option Word) m) (c j : Nat) (w : Word)
    (h : (v[j]?.getD none).isSome = true) :
    ((v.setIfInBounds c (some w))[j]?.getD none).isSome = true := by
  rw [Vector.getElem?_setIfInBounds]
  grind

theorem isSome_setIfInBounds_same {m : Nat} (v : Vector (Option Word) m) {c : Nat} (w : Word)
    (h : c < m) : ((v.setIfInBounds c (some w))[c]?.getD none).isSome = true := by
  simp [h]

theorem initTo_writeInit {s : State} {n : Nat} (c : Nat) (w : Word) (h : s.initTo n = true) :
    (s.writeInit c w).initTo n = true :=
  (initTo_iff _ n).2 fun j hj => isSome_setIfInBounds _ c j w ((initTo_iff s n).1 h j hj)

/-- CTX.INIT's write extends the words of `init` that hold values by one (R102). -/
theorem initTo_writeInit_succ {s : State} {n : Nat} (w : Word) (hn : n < 9)
    (h : s.initTo n = true) : (s.writeInit n w).initTo (n + 1) = true := by
  refine (initTo_iff _ _).2 fun j hj => ?_
  obtain hlt | rfl := Nat.lt_succ_iff_lt_or_eq.1 hj
  · exact (initTo_iff _ n).1 (initTo_writeInit n w h) j hlt
  · exact isSome_setIfInBounds_same _ w hn

theorem poolTo_writePool {s : State} {n : Nat} (c : Nat) (w : Word) (h : s.poolTo n = true) :
    (s.writePool c w).poolTo n = true := by
  refine (poolTo_iff _ n).2 fun k hk => ?_
  have hk' := (poolTo_iff s n).1 h k hk
  rw [writePool_ctxPool]
  split
  · exact isSome_setIfInBounds _ _ k w hk'
  · exact hk'

/-- CTX.POOL's write extends the words of the pool that hold values by one (R103). -/
theorem poolTo_writePool_succ {s : State} {c : Nat} (w : Word) (h9 : 9 ≤ c) (hc : c < 27)
    (h : s.poolTo (c - 9) = true) : (s.writePool c w).poolTo (c + 1 - 9) = true := by
  refine (poolTo_iff _ _).2 fun k hk => ?_
  obtain hlt | rfl : k < c - 9 ∨ k = c - 9 := by omega
  · exact (poolTo_iff _ _).1 (poolTo_writePool c w h) k hlt
  · rw [writePool_ctxPool, if_pos h9]
    exact isSome_setIfInBounds_same _ w (by omega)

theorem contextWritten_iff (s : State) :
    s.contextWritten = true ↔ s.initTo 9 = true ∧ s.poolTo 18 = true ∧ s.ctxFk1.isSome = true ∧
      s.ctxFk2.isSome = true := by
  simp [State.contextWritten, and_assoc]

/-! ## DERIVE -/

theorem staged_ctxKs {s : State} (hp : s.phase = .ctxKs) :
    s.staged = true ↔ s.key.isSome = true ∧ s.ki.isNone = true ∧ s.c.isNone = true ∧
      s.noMacLatch = true ∧ s.noMacWork = true := by
  simp [State.staged, hp, and_assoc]

theorem staged_ctxInit {s : State} (hp : s.phase = .ctxInit) :
    s.staged = true ↔ s.key.isSome = true ∧ s.ki.isSome = true ∧ s.c.isSome = true ∧ s.readC ≤ 8 ∧
      s.initTo s.readC = true ∧ s.noMacLatch = true ∧ s.noMacWork = true := by
  simp [State.staged, hp, and_assoc]

theorem staged_ctxPool {s : State} (hp : s.phase = .ctxPool) :
    s.staged = true ↔ s.key.isSome = true ∧ s.ki.isSome = true ∧ s.c.isSome = true ∧ 9 ≤ s.readC ∧
      s.readC ≤ 26 ∧ s.initTo 9 = true ∧ s.poolTo (s.readC - 9) = true ∧ s.noMacLatch = true ∧
      s.noMacWork = true := by
  simp [State.staged, hp, and_assoc]

theorem staged_ctxFk1 {s : State} (hp : s.phase = .ctxFk1) :
    s.staged = true ↔ s.key.isSome = true ∧ s.ki.isSome = true ∧ s.c = some 27 ∧
      s.initTo 9 = true ∧ s.poolTo 18 = true ∧ s.noMacLatch = true ∧ s.noMacWork = true := by
  simp [State.staged, hp, and_assoc]

theorem staged_ctxFk2 {s : State} (hp : s.phase = .ctxFk2) :
    s.staged = true ↔ s.key.isSome = true ∧ s.ki.isSome = true ∧ s.c = some 28 ∧
      s.initTo 9 = true ∧ s.poolTo 18 = true ∧ s.ctxFk1.isSome = true ∧ s.noMacLatch = true ∧
      s.noMacWork = true := by
  simp [State.staged, hp, and_assoc]

theorem sound_ctxKs {s t : State} (hs : s.sound = true) (hp : s.phase = .ctxKs)
    (h : execCtxKs s = .next t) : t.sound = true := by
  cases h
  obtain ⟨hkey, _, _, hlatch, hwork⟩ := (staged_ctxKs hp).1 ((sound_iff s).1 hs).1
  refine sound_of_flags_kept hs (by simp [hp]) (by simp) ?_ rfl rfl id
  exact (staged_ctxInit rfl).2 ⟨hkey, rfl, rfl, Nat.zero_le 8, rfl, hlatch, hwork⟩

theorem sound_ctxInit {s t : State} (hs : s.sound = true) (hp : s.phase = .ctxInit)
    (h : execCtxInit s = .next t) : t.sound = true := by
  cases h
  obtain ⟨hkey, hki, _, hc, hinit, hlatch, hwork⟩ := (staged_ctxInit hp).1 ((sound_iff s).1 hs).1
  have hinit' := initTo_writeInit_succ (derivedWord s.readKi s.readC) (Nat.lt_succ_of_le hc) hinit
  refine sound_of_flags_kept hs (by simp [hp]) (by split <;> simp) ?_ rfl rfl fun hctx => ?_
  · split
    case isTrue hle => exact (staged_ctxInit rfl).2 ⟨hkey, hki, rfl, hle, hinit', hlatch, hwork⟩
    case isFalse hgt =>
      have h8 : s.readC = 8 := by omega
      rw [h8] at hinit' ⊢
      exact (staged_ctxPool rfl).2
        ⟨hkey, hki, rfl, le_rfl, (by decide : 9 ≤ 26), hinit', rfl, hlatch, hwork⟩
  · obtain ⟨hi, hpool, hfk1, hfk2⟩ := (contextWritten_iff s).1 hctx
    exact (contextWritten_iff _).2 ⟨initTo_writeInit _ _ hi, hpool, hfk1, hfk2⟩

theorem sound_ctxPool {s t : State} (hs : s.sound = true) (hp : s.phase = .ctxPool)
    (h : execCtxPool s = .next t) : t.sound = true := by
  cases h
  obtain ⟨hkey, hki, _, h9, hc, hinit, hpool, hlatch, hwork⟩ :=
    (staged_ctxPool hp).1 ((sound_iff s).1 hs).1
  have hpool' :=
    poolTo_writePool_succ (derivedWord s.readKi s.readC) h9 (Nat.lt_succ_of_le hc) hpool
  refine sound_of_flags_kept hs (by simp [hp]) (by split <;> simp) ?_ rfl rfl fun hctx => ?_
  · split
    case isTrue hle =>
      exact (staged_ctxPool rfl).2
        ⟨hkey, hki, rfl, Nat.le_succ_of_le h9, hle, hinit, hpool', hlatch, hwork⟩
    case isFalse hgt =>
      have h26 : s.readC = 26 := by omega
      rw [h26] at hpool' ⊢
      exact (staged_ctxFk1 rfl).2 ⟨hkey, hki, rfl, hinit, hpool', hlatch, hwork⟩
  · obtain ⟨hi, hpool, hfk1, hfk2⟩ := (contextWritten_iff s).1 hctx
    exact (contextWritten_iff _).2 ⟨hi, poolTo_writePool _ _ hpool, hfk1, hfk2⟩

theorem sound_ctxFk1 {s t : State} (hs : s.sound = true) (hp : s.phase = .ctxFk1)
    (h : execCtxFk1 s = .next t) : t.sound = true := by
  cases h
  obtain ⟨hkey, hki, _, hinit, hpool, hlatch, hwork⟩ := (staged_ctxFk1 hp).1 ((sound_iff s).1 hs).1
  refine sound_of_flags_kept hs (by simp [hp]) (by simp) ?_ rfl rfl fun hctx => ?_
  · exact (staged_ctxFk2 rfl).2 ⟨hkey, hki, rfl, hinit, hpool, rfl, hlatch, hwork⟩
  · obtain ⟨hi, hpool, _, hfk2⟩ := (contextWritten_iff s).1 hctx
    exact (contextWritten_iff _).2 ⟨hi, hpool, rfl, hfk2⟩

/-- CTX.FK2 writes the last of the 49 words before it sets `CTX_VALID` (R105). -/
theorem sound_ctxFk2 {s t : State} (hs : s.sound = true) (hp : s.phase = .ctxFk2)
    (h : execCtxFk2 s = .next t) : t.sound = true := by
  cases h
  obtain ⟨hstaged, _, hfault⟩ := (sound_iff s).1 hs
  obtain ⟨_, _, _, hinit, hpool, hfk1, hlatch, hwork⟩ := (staged_ctxFk2 hp).1 hstaged
  refine (sound_iff _).2 ⟨(staged_idle (.inl rfl)).2 ⟨rfl, hlatch, hwork⟩, fun _ => ?_, ?_⟩
  · exact (contextWritten_iff _).2 ⟨hinit, hpool, hfk1, rfl⟩
  · exact hfault.trans (iff_of_false (by simp [hp]) (by simp))

/-! ## MAC -/

theorem staged_macCheck {s : State} (hp : s.phase = .macCheck) :
    s.staged = true ↔ s.macLatched = true ∧ s.noMacWork = true := by
  simp [State.staged, hp]

theorem staged_auLoad {s : State} (hp : s.phase = .auLoad) :
    s.staged = true ↔ s.macAccepted = true ∧ s.noMacWork = true := by
  simp [State.staged, hp]

theorem staged_finFold {s : State} (hp : s.phase = .finFold) :
    s.staged = true ↔ s.macAccepted = true ∧ s.x.isSome = true ∧ s.hist.isSome = true ∧
      s.t0.isSome = true ∧ s.i.isSome = true ∧ s.readI ≤ 8 := by
  simp [State.staged, hp, and_assoc]

theorem staged_finTag {s : State} (hp : s.phase = .finTag) :
    s.staged = true ↔ s.macAccepted = true ∧ s.x.isSome = true ∧ s.hist.isSome = true ∧
      s.t0.isSome = true ∧ s.i = some 9 := by
  simp [State.staged, hp, and_assoc]

theorem macLatched_iff (s : State) :
    s.macLatched = true ↔ s.noDerive = true ∧ s.nonce.isSome = true ∧ s.len.isSome = true ∧
      s.msg.isSome = true ∧ s.readMsg.length = s.readLen.toNat := by
  simp [State.macLatched, and_assoc]

theorem macAccepted_iff (s : State) :
    s.macAccepted = true ↔ s.macLatched = true ∧ s.ctxValid = true ∧ 192 ≤ s.readLen.toNat := by
  simp [State.macAccepted, and_assoc]

/-- While a MAC is latched no DERIVE runs. -/
theorem noDerive_of_macAccepted {s : State} (h : s.macAccepted = true) : s.noDerive = true := by
  obtain ⟨hlatched, _⟩ := (macAccepted_iff s).1 h
  exact ((macLatched_iff s).1 hlatched).1

/-- A message of at least 192 bytes has three full blocks (R35). -/
theorem three_le_padIndex {s : State} (h : s.macAccepted = true) : 3 ≤ s.padIndex := by
  obtain ⟨_, _, hlen⟩ := (macAccepted_iff s).1 h
  simp only [State.padIndex, nfull]
  omega

theorem noMacWork_iff (s : State) :
    s.noMacWork = true ↔ s.x.isNone = true ∧ s.t0.isNone = true ∧ s.hist.isNone = true ∧
      s.t.isNone = true ∧ s.i.isNone = true := by
  simp [State.noMacWork, and_assoc]

theorem absorbing_iff (s : State) (test : Nat → Bool) :
    s.absorbing test = true ↔ s.macAccepted = true ∧ s.x.isSome = true ∧ s.hist.isSome = true ∧
      s.t.isSome = true ∧ test s.readT = true ∧ s.t0.isNone = true ∧ s.i.isNone = true := by
  simp [State.absorbing, and_assoc]

/-- The stores a phase finds depend on the phase only through its own row of the table. -/
theorem staged_setPhase_of_phase {s : State} {p : Phase} (hp : s.phase = p) :
    (s.setPhase p).staged = s.staged := by
  subst hp; rfl

/-- What a sound state's phase, called by its name, finds in the stores. -/
theorem staged_of_sound {s : State} {p : Phase} (hs : s.sound = true) (hp : s.phase = p) :
    (s.setPhase p).staged = true :=
  (staged_setPhase_of_phase hp).trans ((sound_iff s).1 hs).1

/-- A round keeps the invariant when the phase it leads to asks for the `t` it sets (R144). -/
theorem sound_of_round {s t : State} {test : Nat → Bool} (test' : Nat → Bool) {n : Nat} {p : Phase}
    {m0 m1 m2 m3 tap : Word} (hs : s.sound = true) (hp : s.phase ≠ .faultHalt)
    (habs : s.absorbing test = true)
    (hround : t = ((s.absorbRound m0 m1 m2 m3 tap).setT n).setPhase p)
    (hp' : p ≠ .faultHalt) (hstaged : t.staged = t.absorbing test') (hn : test' n = true) :
    t.sound = true := by
  subst hround
  obtain ⟨hacc, _, _, _, _, ht0, hi⟩ := (absorbing_iff s test).1 habs
  have hnext := (absorbing_iff (((s.absorbRound m0 m1 m2 m3 tap).setT n).setPhase p) test').2
    ⟨hacc, rfl, rfl, rfl, hn, ht0, hi⟩
  exact sound_of_flags_kept hs hp hp' (hstaged.trans hnext) rfl rfl id

/-- A round that finds `t` at `P + k` and counts it up keeps the invariant when the phase it leads
to asks for `P + (k + 1)`. -/
theorem sound_of_countedRound {s t : State} {k : Nat} {p : Phase} {m0 m1 m2 m3 tap : Word}
    (hs : s.sound = true) (hp : s.phase ≠ .faultHalt)
    (habs : s.absorbing (· == s.padIndex + k) = true)
    (hround : t = ((s.absorbRound m0 m1 m2 m3 tap).setT (s.readT + 1)).setPhase p)
    (hp' : p ≠ .faultHalt) (hstaged : t.staged = t.absorbing (· == s.padIndex + (k + 1))) :
    t.sound = true := by
  obtain ⟨_, _, _, _, ht, _⟩ := (absorbing_iff s _).1 habs
  rw [beq_iff_eq] at ht
  exact sound_of_round _ hs hp habs hround hp' hstaged (by simp [ht, Nat.add_assoc])

/-- A MAC that MAC.CHECK rejects leaves no store behind; one that it passes has a Context and at
least 192 message bytes (R143). -/
theorem sound_macCheck {s t : State} (hs : s.sound = true) (hp : s.phase = .macCheck)
    (h : execMacCheck s = .next t) : t.sound = true := by
  obtain ⟨hlatched, hwork⟩ := (staged_macCheck hp).1 ((sound_iff s).1 hs).1
  obtain ⟨e, _, hc⟩ | ⟨hv, hlen, hc⟩ := execMacCheck_cases s <;> cases hc.symm.trans h
  · have hderive := ((macLatched_iff s).1 hlatched).1
    exact sound_of_flags_kept hs (by simp [hp]) (by simp)
      ((staged_idle (.inl rfl)).2 ⟨hderive, rfl, hwork⟩) rfl rfl id
  · have hacc := (macAccepted_iff s).2 ⟨hlatched, hv, hlen⟩
    exact sound_of_flags_kept hs (by simp [hp]) (by simp)
      ((staged_auLoad rfl).2 ⟨hacc, hwork⟩) rfl rfl id

theorem sound_auLoad {s t : State} (hs : s.sound = true) (hp : s.phase = .auLoad)
    (h : execAuLoad s = .next t) : t.sound = true := by
  cases h
  obtain ⟨hacc, hwork⟩ := (staged_auLoad hp).1 ((sound_iff s).1 hs).1
  obtain ⟨_, ht0, _, _, hi⟩ := (noMacWork_iff s).1 hwork
  exact sound_of_flags_kept hs (by simp [hp]) (by simp)
    ((absorbing_iff _ (· == 0)).2 ⟨hacc, rfl, rfl, rfl, rfl, ht0, hi⟩) rfl rfl id

theorem sound_auWarmup3 {s t : State} (hs : s.sound = true) (hp : s.phase = .auWarmup3)
    (h : execAuWarmup3 s = .next t) : t.sound = true := by
  cases h
  have habs : s.absorbing (· == 2) = true := staged_of_sound hs hp
  have h3 := three_le_padIndex ((absorbing_iff s _).1 habs).1
  split
  · exact sound_of_round (fun t => Nat.ble 3 t && Nat.blt t s.padIndex) hs (by simp [hp]) habs
      rfl (by decide) rfl (by simpa)
  · exact sound_of_round (· == s.padIndex) hs (by simp [hp]) habs rfl (by decide) rfl
      (by simp; omega)

theorem sound_auSteady {s t : State} (hs : s.sound = true) (hp : s.phase = .auSteady)
    (h : execAuSteady s = .next t) : t.sound = true := by
  cases h
  have habs : s.absorbing (fun t => Nat.ble 3 t && Nat.blt t s.padIndex) = true :=
    staged_of_sound hs hp
  obtain ⟨_, _, _, _, ht, _⟩ := (absorbing_iff s _).1 habs
  obtain ⟨h3, hlt⟩ : 3 ≤ s.readT ∧ s.readT < s.padIndex := by simpa using ht
  split
  · exact sound_of_round (fun t => Nat.ble 3 t && Nat.blt t s.padIndex) hs (by simp [hp]) habs
      rfl (by decide) rfl (by simp; omega)
  · exact sound_of_round (· == s.padIndex) hs (by simp [hp]) habs rfl (by decide) rfl
      (by simp; omega)

/-- AU.DRAIN3 leaves `t` as it is (R119). -/
theorem sound_auDrain3 {s t : State} (hs : s.sound = true) (hp : s.phase = .auDrain3)
    (h : execAuDrain3 s = .next t) : t.sound = true := by
  cases h
  have habs : s.absorbing (· == s.padIndex + 3) = true := staged_of_sound hs hp
  obtain ⟨hacc, _, _, ht, hround, ht0, hi⟩ := (absorbing_iff s _).1 habs
  exact sound_of_flags_kept hs (by simp [hp]) (by simp)
    ((absorbing_iff _ (· == s.padIndex + 3)).2 ⟨hacc, rfl, rfl, ht, hround, ht0, hi⟩) rfl rfl id

theorem sound_finNonce {s t : State} (hs : s.sound = true) (hp : s.phase = .finNonce)
    (h : execFinNonce s = .next t) : t.sound = true := by
  cases h
  have habs : s.absorbing (· == s.padIndex + 3) = true := staged_of_sound hs hp
  obtain ⟨hacc, hx, hhist, _⟩ := (absorbing_iff s _).1 habs
  exact sound_of_flags_kept hs (by simp [hp]) (by simp)
    ((staged_finFold rfl).2 ⟨hacc, hx, hhist, rfl, rfl, Nat.zero_le 8⟩) rfl rfl id

theorem sound_finFold {s t : State} (hs : s.sound = true) (hp : s.phase = .finFold)
    (h : execFinFold s = .next t) : t.sound = true := by
  cases h
  obtain ⟨hacc, hx, hhist, _, _, hi⟩ := (staged_finFold hp).1 ((sound_iff s).1 hs).1
  refine sound_of_flags_kept hs (by simp [hp]) (by split <;> simp) ?_ rfl rfl id
  split
  case isTrue hle => exact (staged_finFold rfl).2 ⟨hacc, hx, hhist, rfl, rfl, hle⟩
  case isFalse hgt =>
    have h8 : s.readI = 8 := by omega
    rw [h8]
    exact (staged_finTag rfl).2 ⟨hacc, hx, hhist, rfl, rfl⟩

/-- FIN.TAG leaves no store behind (R133). -/
theorem sound_finTag {s t : State} (hs : s.sound = true) (hp : s.phase = .finTag)
    (h : execFinTag s = .next t) : t.sound = true := by
  cases h
  obtain ⟨hacc, _⟩ := (staged_finTag hp).1 ((sound_iff s).1 hs).1
  have hderive := noDerive_of_macAccepted hacc
  exact sound_of_flags_kept hs (by simp [hp]) (by simp)
    ((staged_idle (.inl rfl)).2 ⟨hderive, rfl, rfl⟩) rfl rfl id

/-! ## IDLE, and every step -/

/-- Acceptance latches the operands of one command, the message with its length, or halts the block
with `FAULT` set (R140, R163). -/
theorem sound_acceptCommand {s : State} (hs : s.sound = true) (hp : s.phase = .idle) :
    s.acceptCommand.sound = true := by
  obtain ⟨hstaged, hslot, _⟩ := (sound_iff s).1 hs
  obtain ⟨hderive, hlatch, hwork⟩ := (staged_idle (.inl hp)).1 hstaged
  obtain ⟨_, hki, hc⟩ := (noDerive_iff s).1 hderive
  obtain ⟨_, h⟩ | ⟨_, _, h⟩ | ⟨_, _, _, _, h⟩ | ⟨nonce, len, msg, _, _, hd, h⟩ | ⟨_, _, _, _, h⟩ :=
    acceptCommand_cases s <;> rw [h]
  · exact hs
  · exact hs
  · exact sound_of_flags_kept hs (by simp [hp]) (by simp [State.acceptDerive])
      ((staged_ctxKs rfl).2 ⟨rfl, hki, hc, hlatch, hwork⟩) rfl rfl id
  · have hlatched := (macLatched_iff (s.acceptMac nonce len msg)).2
      ⟨hderive, rfl, rfl, rfl, (decodePacket_memory_wf hd).2⟩
    exact sound_of_flags_kept hs (by simp [hp]) (by simp [State.acceptMac])
      ((staged_macCheck rfl).2 ⟨hlatched, hwork⟩) rfl rfl id
  · exact (sound_iff _).2
      ⟨(staged_idle (.inr rfl)).2 ⟨hderive, hlatch, hwork⟩, hslot, iff_of_true rfl rfl⟩

/-- Settles O46, by the row of the phase the step starts in. -/
theorem stepKeepsSound : Obligations.StepKeepsSound := by
  intro s t hs h
  rw [step_eq_exec_phase] at h
  cases hp : s.phase <;> rw [hp] at h
  case idle => cases h; exact sound_acceptCommand hs hp
  case ctxKs => exact sound_ctxKs hs hp h
  case ctxInit => exact sound_ctxInit hs hp h
  case ctxPool => exact sound_ctxPool hs hp h
  case ctxFk1 => exact sound_ctxFk1 hs hp h
  case ctxFk2 => exact sound_ctxFk2 hs hp h
  case macCheck => exact sound_macCheck hs hp h
  case auLoad => exact sound_auLoad hs hp h
  case auWarmup1 =>
    cases h
    exact sound_of_round (test := (· == 0)) (· == 1) hs (by simp [hp]) (staged_of_sound hs hp) rfl
      (by decide) rfl rfl
  case auWarmup2 =>
    cases h
    exact sound_of_round (test := (· == 1)) (· == 2) hs (by simp [hp]) (staged_of_sound hs hp) rfl
      (by decide) rfl rfl
  case auWarmup3 => exact sound_auWarmup3 hs hp h
  case auSteady => exact sound_auSteady hs hp h
  case auPad =>
    cases h
    exact sound_of_countedRound (k := 0) hs (by simp [hp]) (staged_of_sound hs hp) rfl
      (by decide) rfl
  case auDrain1 =>
    cases h
    exact sound_of_countedRound (k := 1) hs (by simp [hp]) (staged_of_sound hs hp) rfl
      (by decide) rfl
  case auDrain2 =>
    cases h
    exact sound_of_countedRound (k := 2) hs (by simp [hp]) (staged_of_sound hs hp) rfl
      (by decide) rfl
  case auDrain3 => exact sound_auDrain3 hs hp h
  case finNonce => exact sound_finNonce hs hp h
  case finFold => exact sound_finFold hs hp h
  case finTag => exact sound_finTag hs hp h
  case faultHalt => cases h; exact hs

end Sys2Proof.Machine
end

section
/-! PROOF SUPPORT. The padded message (R36): its length, its bytes, and how the message is read back
from it; the message words made of it (R37). -/

namespace Sys2Proof.Machine

/-! ## Length and bytes of the padded message -/

/-- The padding ends at the end of a block (R36). -/
theorem paddedMessage_length (m : Memory) :
    (paddedMessage m).length = 64 * (nfull m.length + 1) := by
  simp only [paddedMessage, remBytes, nfull, List.length_append, List.length_cons,
    List.length_replicate]
  omega

/-- Byte `k` of the padded message: inside the message, right after it, beyond it (R36). -/
theorem paddedMessage_getElem (m : Memory) (k : Nat) (hk : k < (paddedMessage m).length) :
    (paddedMessage m)[k] =
      if h : k < m.length then m[k] else if k = m.length then 0x01 else 0x00 := by
  rcases Nat.lt_trichotomy k m.length with hlt | rfl | hgt
  · rw [dif_pos hlt]
    exact List.getElem_append_left hlt
  · simp [paddedMessage]
  · obtain ⟨d, rfl⟩ := Nat.exists_eq_add_of_lt hgt
    simp [paddedMessage, List.getElem_append_right, Nat.add_assoc]

/-- The sixteen bytes of a word of the padded message are all there (R37). -/
theorem paddedMessage_wordBytes_length (m : Memory) (i : Nat) (hi : i < 4 * (nfull m.length + 1)) :
    (((paddedMessage m).drop (16 * i)).take 16).length = 16 := by
  rw [List.length_take, List.length_drop, paddedMessage_length]
  omega

/-- Byte `k` of `MW(i)` is byte `16 i + k` of the padded message (R32, R37). -/
theorem byteAt_mw (m : Memory) (i k : Nat) (hi : i < 4 * (nfull m.length + 1)) (hk : k < 16) :
    byteAt (mw m i) k =
      (paddedMessage m)[16 * i + k]'(by rw [paddedMessage_length]; omega) := by
  rw [mw_inside m i hi, byteAt_wordOfBytes _ (paddedMessage_wordBytes_length m i hi) k hk,
    List.getElem_take, List.getElem_drop]

/-- Settles O17: a word inside the padded message is sixteen of its bytes, and the others are zero. -/
theorem messageWordsAreThePaddedBytes : Obligations.MessageWordsAreThePaddedBytes := by
  intro m
  refine ⟨fun i k hi hk => ?_, mw_outside m⟩
  rw [byteAt_mw m i k hi hk, paddedMessage_getElem]

/-! ## Reading the message back -/

/-- R36: a padded message with its trailing zero bytes, and then one byte, removed. -/
def unpad (bs : List Byte) : List Byte :=
  (bs.rdropWhile (· == 0x00)).dropLast

/-- Zero bytes at the end do not change what is left without the trailing zero bytes. -/
theorem rdropWhile_append_zeros (bs : List Byte) (n : Nat) :
    (bs ++ List.replicate n 0x00).rdropWhile (· == 0x00) = bs.rdropWhile (· == 0x00) := by
  induction n with
  | zero => simp
  | succ n ih =>
    rw [List.replicate_succ', ← List.append_assoc, List.rdropWhile_concat_pos _ _ _ (by decide), ih]

/-- The message is its padded message unpadded, also when the message itself ends in zero bytes or
in a `0x01`: the pad byte stops the removal of zeros (R36). -/
theorem unpad_paddedMessage (m : Memory) : unpad (paddedMessage m) = m := by
  have hsplit : paddedMessage m =
      (m ++ [Config.padByte]) ++ List.replicate (63 - remBytes m.length) 0x00 := by
    simp [paddedMessage]
  rw [unpad, hsplit, rdropWhile_append_zeros, List.rdropWhile_concat_neg _ _ _ (by decide),
    List.dropLast_concat]

/-- Settles O18: unpadding is a left inverse of padding. -/
theorem paddingIsInjective : Obligations.PaddingIsInjective :=
  ⟨Function.LeftInverse.injective unpad_paddedMessage, paddedMessage_length⟩

end Sys2Proof.Machine
end

section
/-! PROOF SUPPORT. The encodings (R50 to R57): decoding and encoding are inverse on the well-formed
instructions, so that no packet is a proper initial part of another; the textual lines (R59); and
the one answer of each command (R54). -/

namespace Sys2Proof.Machine

/-! ## Decoding what was encoded -/

open Laws in
/-- Every instruction is encoded in the place and at the length its constructor says. -/
theorem encodedShape : ∀ i : Instr, EncodedShape.Statement i
  | .derive key => EncodedShape.derive key
  | .mac nonce len msg => EncodedShape.mac nonce len msg
  | .illegal b => EncodedShape.illegal b
  | .idle => EncodedShape.idle
  | .ctxKs => EncodedShape.ctxKs
  | .ctxInit => EncodedShape.ctxInit
  | .ctxPool => EncodedShape.ctxPool
  | .ctxFk1 => EncodedShape.ctxFk1
  | .ctxFk2 => EncodedShape.ctxFk2
  | .macCheck => EncodedShape.macCheck
  | .auLoad => EncodedShape.auLoad
  | .auWarmup1 => EncodedShape.auWarmup1
  | .auWarmup2 => EncodedShape.auWarmup2
  | .auWarmup3 => EncodedShape.auWarmup3
  | .auSteady => EncodedShape.auSteady
  | .auPad => EncodedShape.auPad
  | .auDrain1 => EncodedShape.auDrain1
  | .auDrain2 => EncodedShape.auDrain2
  | .auDrain3 => EncodedShape.auDrain3
  | .finNonce => EncodedShape.finNonce
  | .finFold => EncodedShape.finFold
  | .finTag => EncodedShape.finTag
  | .faultHalt => EncodedShape.faultHalt

/-- An opcode byte that is neither command's is a packet by itself (R55). -/
theorem decodePacket_encodeIllegal {b : Byte} (rest : List Byte)
    (h : (Instr.illegal b).wf = true) :
    decodePacket (encodePacket (.illegal b) ++ rest) = .ok (.illegal b, rest) := by
  obtain ⟨h1, h2⟩ : b ≠ 0x01 ∧ b ≠ 0x02 := by simpa [Instr.wf] using h
  exact (if_neg h1).trans (if_neg h2)

/-- The packet of a well-formed command is read back, whatever bytes follow it. -/
theorem decodePacket_encodePacket {i : Instr} (hwf : i.wf = true) (hon : i.onStream = true)
    (rest : List Byte) : decodePacket (encodePacket i ++ rest) = .ok (i, rest) := by
  cases i with
  | derive key => exact decodePacket_encodeDerive key rest
  | mac nonce len msg =>
    have hlen : msg.length = len.toNat := by simpa [Instr.wf] using hwf
    exact decodePacket_encodeMac nonce rest hlen
  | illegal b => exact decodePacket_encodeIllegal rest hwf
  | _ => cases hon

theorem decode_phase {code : BitVec 5} {p : Phase} (h : phaseOfCode code = some p) :
    decode (.phase code) = .ok (phaseInstr p, []) := by
  simp only [decode, h]

theorem decode_encode {i : Instr} (hwf : i.wf = true) : decode (encode i) = .ok (i, []) := by
  obtain ⟨hon, bytes, henc, _⟩ | ⟨_, code, p, henc, hcode, rfl⟩ := encodedShape i hwf
  · have hdec := decodePacket_encodePacket hwf hon []
    rw [encodePacket, henc, List.append_nil] at hdec
    rw [henc]
    exact hdec
  · rw [henc]
    exact decode_phase hcode

/-- Settles O38, by the place of the encoding: a packet on the stream or a code of `PHASE`. -/
theorem decodeOfEncodeIsTheInstruction : Obligations.DecodeOfEncodeIsTheInstruction :=
  fun _ hwf => ⟨decode_encode hwf, decodePacket_encodePacket hwf⟩

/-! ## Encoding what was decoded -/

/-- The eight bytes of the field `LEN` are those of the length they were read as (R33, R52). -/
theorem leBytes_of_lenField {bs : List Byte} (h : bs.length = 8) :
    leBytes 8 (BitVec.ofNat 64 (leNat bs)).toNat = bs := by
  have hlt : leNat bs < 2 ^ 64 := by simpa [h] using leNat_lt bs
  rw [BitVec.toNat_ofNat, Nat.mod_eq_of_lt hlt, ← h, leBytes_leNat]

theorem encodeDerive_decoded {tl : List Byte} (h : 16 ≤ tl.length) :
    encodeDerive (wordOfBytes (tl.take 16)) ++ tl.drop 16 = 0x01 :: tl := by
  rw [encodeDerive, wordBytes_wordOfBytes _ (List.length_take_of_le h), List.cons_append,
    List.take_append_drop]

/-- Nonce, length field and message are the consecutive parts of the packet they were read from. -/
theorem encodeMac_decoded {tl : List Byte} {len : BitVec 64} (h : 24 + len.toNat ≤ tl.length)
    (hlen : len = BitVec.ofNat 64 (leNat ((tl.drop 16).take 8))) :
    encodeMac (wordOfBytes (tl.take 16)) len ((tl.drop 24).take len.toNat) ++
      tl.drop (24 + len.toNat) = 0x02 :: tl := by
  have hnonce : (tl.take 16).length = 16 := List.length_take_of_le (by omega)
  have hfield : leBytes 8 len.toNat = (tl.drop 16).take 8 := by
    rw [hlen]
    exact leBytes_of_lenField (List.length_take_of_le (by rw [List.length_drop]; omega))
  rw [encodeMac, wordBytes_wordOfBytes _ hnonce, hfield, List.cons_append]
  calc 0x02 :: ((tl.take 16 ++ ((tl.drop 16).take 8 ++ (tl.drop 24).take len.toNat)) ++
          tl.drop (24 + len.toNat))
      = 0x02 :: (tl.take 16 ++ ((tl.drop 16).take 8 ++ ((tl.drop 24).take len.toNat ++
          (tl.drop 24).drop len.toNat))) := by simp only [List.append_assoc, List.drop_drop]
    _ = 0x02 :: (tl.take 16 ++ ((tl.drop 16).take 8 ++ (tl.drop 16).drop 8)) := by
        rw [List.take_append_drop, List.drop_drop]
    _ = 0x02 :: tl := by rw [List.take_append_drop, List.take_append_drop]

/-- What decodes is its own encoding, followed by the bytes left (R51, R52, R55). -/
theorem encodePacket_of_decodePacket {bs rest : List Byte} {i : Instr}
    (h : decodePacket bs = .ok (i, rest)) : encodePacket i ++ rest = bs := by
  obtain ⟨tl, rfl, hl, rfl, rfl⟩ | ⟨tl, len, rfl, hl, hlen, rfl, rfl⟩ | ⟨b, rfl, _, _, rfl⟩ :=
    decodePacket_cases h
  · exact encodeDerive_decoded hl
  · exact encodeMac_decoded hl hlen
  · rfl

theorem decodePacket_wf {bs rest : List Byte} {i : Instr}
    (h : decodePacket bs = .ok (i, rest)) : i.wf = true := by
  obtain ⟨_, _, _, rfl, _⟩ | ⟨_, _, _, _, _, rfl, _⟩ | ⟨_, _, h1, h2, rfl⟩ := decodePacket_cases h
  · rfl
  · simpa [Instr.wf] using (decodePacket_memory_wf h).2
  · simpa [Instr.wf] using And.intro h1 h2

/-- The row of the table of R56 that a used code is found in is the row of its phase. -/
theorem phaseCode_of_phaseOfCode {code : BitVec 5} {p : Phase} (h : phaseOfCode code = some p) :
    phaseCode p = code := by
  have htable : ∀ row ∈ phaseTable, (phaseCode row.2).toNat = row.1 := by decide
  obtain ⟨l, r, hrow, _⟩ := List.lookup_eq_some_iff.1 h
  exact BitVec.eq_of_toNat_eq (htable (code.toNat, p) (by simp [hrow]))

/-- Settles O39, by what a decoded packet can be and by the table of R56. -/
theorem encodeOfDecodeIsTheBytes : Obligations.EncodeOfDecodeIsTheBytes := by
  refine ⟨fun bs rest i h => ?_, fun code p h => ?_, ?_⟩
  · exact ⟨decodePacket_wf h, decodePacket_onStream h, encodePacket_of_decodePacket h⟩
  · exact ⟨phaseCode_of_phaseOfCode h, decode_phase h⟩
  · decide

/-! ## Packets that have not fully arrived (R53) -/

/-- No packet is a proper initial part of another: a proper initial part of a packet does not
decode, for the packet would then decode with bytes left over. -/
theorem decodePacket_take_encodePacket {i : Instr} {n : Nat} (hwf : i.wf = true)
    (hon : i.onStream = true) (hn : n < (encodePacket i).length) :
    ∃ e, decodePacket ((encodePacket i).take n) = .error e := by
  cases hd : decodePacket ((encodePacket i).take n) with
  | error e => exact ⟨e, rfl⟩
  | ok r =>
    obtain ⟨j, rest⟩ := r
    have hsplit : encodePacket j ++ (rest ++ (encodePacket i).drop n) = encodePacket i := by
      rw [← List.append_assoc, encodePacket_of_decodePacket hd, List.take_append_drop]
    have hj := decodePacket_encodePacket (decodePacket_wf hd) (decodePacket_onStream hd)
      (rest ++ (encodePacket i).drop n)
    have hi := decodePacket_encodePacket hwf hon []
    rw [hsplit] at hj
    rw [List.append_nil, hj] at hi
    have hnil : rest ++ (encodePacket i).drop n = [] := congrArg Prod.snd (Except.ok.inj hi)
    have hle : (encodePacket i).length ≤ n :=
      List.drop_eq_nil_iff.1 (List.append_eq_nil_iff.1 hnil).2
    exact absurd hn (Nat.not_lt.2 hle)

/-- Settles O40: the initial part does not decode, and with the missing bytes it is the packet. -/
theorem incompletePacketIsWaitedFor : Obligations.IncompletePacketIsWaitedFor := by
  intro s i n hwf hon hp hn hin
  constructor
  · obtain ⟨e, he⟩ := decodePacket_take_encodePacket hwf hon hn
    rw [step_idle hp, State.acceptCommand, hin, he, ite_self]
  · have hinp : (s.hostSend ((encodePacket i).drop n)).inp = encodePacket i ++ [] := by
      rw [hostSend_inp, hin, List.take_append_drop, List.append_nil]
    have hd := hinp ▸ decodePacket_encodePacket hwf hon []
    rw [step, fetch_of_packet (s := s.hostSend ((encodePacket i).drop n)) hp hd]

/-! ## Answers (R54, R145) -/

/-- A command that runs ends in CTX.FK2, MAC.CHECK or FIN.TAG: the other rows lead to another row
(R144). -/
theorem phase_of_step_to_idle {s t : State} (h : step s = .next t) (ht : t.phase = .idle)
    (hs : s.phase ≠ .idle) : s.phase = .ctxFk2 ∨ s.phase = .macCheck ∨ s.phase = .finTag := by
  rw [step_eq_exec_phase] at h
  cases hp : s.phase <;> rw [hp] at h
  case idle => exact absurd hp hs
  case ctxFk2 | macCheck | finTag => simp
  case faultHalt => cases h; exact absurd ht hs
  case ctxInit | ctxPool | auWarmup3 | auSteady | finFold =>
    cases h
    rw [setPhase_phase] at ht
    split at ht <;> cases ht
  all_goals cases h; cases ht

/-- Settles O53, by the group of rows the step is of: the publication, the rejection, the answer and
the illegal opcode append to `OUT`, and no other row ends a command. -/
theorem eachCommandIsAnsweredOnce : Obligations.EachCommandIsAnsweredOnce := by
  intro s t h
  have hend := phase_of_step_to_idle h
  cases step_effect h with
  | wait hp | acceptDerive hp | acceptMac hp => exact ⟨.inl rfl, fun _ hs => absurd hp hs⟩
  | acceptIllegal hp =>
    exact ⟨.inr (.inr (.inr (.inr (.inr ⟨rfl, hp, rfl⟩)))), fun _ hs => absurd hp hs⟩
  | expandKey hp | makeContext hp | workMac hp | halt hp =>
    refine ⟨.inl rfl, fun ht hs => ?_⟩
    obtain hq | hq | hq := hend ht hs <;> simp [hq] at hp
  | publish hp => exact ⟨.inr (.inl ⟨rfl, hp, rfl⟩), fun _ _ => by simp⟩
  | pass hp => exact ⟨.inl rfl, fun ht => by cases ht⟩
  | @reject e hp he =>
    refine ⟨?_, fun _ _ => by simp⟩
    cases e with
    | shortMessage => exact .inr (.inr (.inr (.inl ⟨rfl, hp, rfl⟩)))
    | noContext => exact .inr (.inr (.inr (.inr (.inl ⟨rfl, hp, rfl⟩))))
    | illegalCommand => exact absurd rfl he
  | @answer tag hp => exact ⟨.inr (.inr (.inl ⟨tag, rfl, hp, rfl⟩)), fun _ _ => by simp⟩

/-! ## Written words, and lines of text (R59) -/

/-- Settles O41, by running the decoder on each word. -/
theorem wordsDecodeToTheirInstructions : Obligations.WordsDecodeToTheirInstructions :=
  ⟨rfl, rfl, rfl, rfl, rfl, rfl, rfl⟩

/-- The bytes of a line are those of its expansion. -/
theorem lineBytes_expandLine (l : Line) : lineBytes l = (expandLine l).flatMap lineBytes := by
  cases l with
  | tag key nonce msg => simp [expandLine, lineBytes]
  | deriveContext key => exact (List.flatMap_singleton lineBytes (Line.derive key)).symm
  | computeTag nonce msg => exact (List.flatMap_singleton lineBytes (Line.mac nonce msg)).symm
  | _ => exact (List.flatMap_singleton lineBytes _).symm

/-- Settles O43. -/
theorem pseudoCommandsExpand : Obligations.PseudoCommandsExpand :=
  ⟨fun _ => rfl, fun _ _ => rfl, fun _ _ _ => rfl, lineBytes_expandLine⟩

end Sys2Proof.Machine
end

section
/-! PROOF SUPPORT. The cipher as a chain of bijections (R70 to R79): each step of a round is
invertible, so a round is, so whitening and any number of rounds are. The row
shift and the column mix come round to the identity when applied four times. -/

namespace Sys2Proof.Machine

/-! ## The byte substitution (R70, R71) -/

/-- The table of `S` read backwards: byte `k` of row `r` is the byte whose `S` is `16 r + k`. -/
def sboxInvRows : List Word :=
  [0x52096ad53036a538bf40a39e81f3d7fb, 0x7ce339829b2fff87348e4344c4dee9cb,
   0x547b9432a6c2233dee4c950b42fac34e, 0x082ea16628d924b2765ba2496d8bd125,
   0x72f8f66486689816d4a45ccc5d65b692, 0x6c704850fdedb9da5e154657a78d9d84,
   0x90d8ab008cbcd30af7e45805b8b34506, 0xd02c1e8fca3f0f02c1afbd0301138a6b,
   0x3a9111414f67dcea97f2cfcef0b4e673, 0x96ac7422e7ad3585e2f937e81c75df6e,
   0x47f11a711d29c5896fb7620eaa18be1b, 0xfc563e4bc6d279209adbc0fe78cd5af4,
   0x1fdda8338807c731b11210592780ec5f, 0x60517fa919b54a0d2de57a9f93c99cef,
   0xa0e03b4dae2af5b0c8ebbb3c83539961, 0x172b047eba77d626e169146355210c7d]

def sboxInv (b : Byte) : Byte :=
  byteAt (sboxInvRows.getD (b.toNat / 16) zeroWord) (b.toNat % 16)

theorem sboxInv_sbox : ∀ a : Byte, sboxInv (sbox a) = a := by
  decide +kernel

theorem sbox_injective : Function.Injective sbox :=
  Function.LeftInverse.injective sboxInv_sbox

theorem sbox_bijective : Function.Bijective sbox :=
  Finite.injective_iff_bijective.1 sbox_injective

theorem sbox_ne_self : ∀ a : Byte, sbox a ≠ a := by
  decide +kernel

/-- R70 and R71 over the 256 bytes: `inv` gives inverses, and the table is the affine map of `inv`.
One evaluation, so that the kernel computes each inverse once. -/
theorem gmul_inv_and_sbox_eq_sboxAffine :
    ∀ a : Byte, (a ≠ 0 → gmul a (inv a) = 0x01) ∧ sbox a = sboxAffine a := by
  decide +kernel

/-- Settles O1: the field facts byte by byte, the bijection from the table read backwards. -/
theorem sboxIsAffineInverse : Obligations.SboxIsAffineInverse :=
  ⟨fun a => (gmul_inv_and_sbox_eq_sboxAffine a).1, by decide +kernel,
    fun a => (gmul_inv_and_sbox_eq_sboxAffine a).2, sbox_bijective, sbox_ne_self,
    by decide, by decide, by decide⟩

/-! ## SubBytes (R72) -/

/-- Settles O2. -/
theorem subBytesActsOnEachByte : Obligations.SubBytesActsOnEachByte := by
  refine ⟨byteAt_subBytes, fun v w k hk h => ?_, by decide +kernel⟩
  rw [byteAt_subBytes v k hk, byteAt_subBytes w k hk, h]

theorem subBytes_bijective : Function.Bijective subBytes :=
  Finite.injective_iff_bijective.1 fun v w h =>
    word_ext v w fun k hk => sbox_injective <| by
      rw [← byteAt_subBytes v k hk, ← byteAt_subBytes w k hk, h]

/-! ## ShiftRows (R73) -/

theorem shiftSource_row_column {r : Nat} (c : Nat) (hr : r < 4) :
    shiftSource (r + 4 * c) = r + 4 * ((c + r) % 4) := by
  unfold shiftSource; omega

/-- Settles O3, from the source index of each byte. -/
theorem shiftRowsRotatesRows : Obligations.ShiftRowsRotatesRows := by
  have hrow (w : Word) (r c : Nat) (hr : r < 4) (hc : c < 4) :
      byteAt (shiftRows w) (r + 4 * c) = byteAt w (r + 4 * ((c + r) % 4)) := by
    rw [byteAt_shiftRows w _ (by omega), shiftSource_row_column c hr]
  refine ⟨hrow, fun w => ?_, fun w c hc => ?_, by decide +kernel⟩
  · rw [shiftRows, wordBytes_wordOfBytes _ (by simp)]; rfl
  · have := hrow w 0 c (by omega) hc
    rwa [zero_add, zero_add, add_zero, Nat.mod_eq_of_lt hc] at this

/-- A function that comes round to the identity is a bijection. -/
theorem bijective_of_iterate_succ {α : Type} {f : α → α} {n : Nat} (h : ∀ a, f^[n + 1] a = a) :
    Function.Bijective f :=
  Function.bijective_iff_has_inverse.2
    ⟨f^[n], h, fun a => (Function.iterate_succ_apply' f n a).symm.trans (h a)⟩

/-- Row `r` moves by `r` columns, so four row shifts move it by `4r`: all the way round. -/
theorem shiftRows_four_times (w : Word) : shiftRows^[4] w = w :=
  word_ext _ _ fun k hk => by
    simp only [Function.iterate_succ, Function.iterate_zero, Function.comp_apply, id_eq,
      byteAt_shiftRows _ _ hk, byteAt_shiftRows _ _ (shiftSource_lt _)]
    congr 1
    unfold shiftSource; omega

theorem shiftRows_bijective : Function.Bijective shiftRows :=
  bijective_of_iterate_succ (n := 3) shiftRows_four_times

/-! ## MixColumns (R74) -/

/-- The four bytes of a mixed column. -/
theorem byteAt_mixColumns_column (w : Word) (c : Nat) (hc : c < 4) :
    byteAt (mixColumns w) (4 * c) = mul2 (byteAt w (4 * c)) ^^^ mul3 (byteAt w (4 * c + 1)) ^^^
      byteAt w (4 * c + 2) ^^^ byteAt w (4 * c + 3) ∧
    byteAt (mixColumns w) (4 * c + 1) = byteAt w (4 * c) ^^^ mul2 (byteAt w (4 * c + 1)) ^^^
      mul3 (byteAt w (4 * c + 2)) ^^^ byteAt w (4 * c + 3) ∧
    byteAt (mixColumns w) (4 * c + 2) = byteAt w (4 * c) ^^^ byteAt w (4 * c + 1) ^^^
      mul2 (byteAt w (4 * c + 2)) ^^^ mul3 (byteAt w (4 * c + 3)) ∧
    byteAt (mixColumns w) (4 * c + 3) = mul3 (byteAt w (4 * c)) ^^^ byteAt w (4 * c + 1) ^^^
      byteAt w (4 * c + 2) ^^^ mul2 (byteAt w (4 * c + 3)) := by
  refine ⟨?_, ?_, ?_, ?_⟩ <;> rw [byteAt_mixColumns w _ (by omega)] <;>
    simp [mixColumn, Nat.mul_add_div]

/-- Column `c` of a word, its bytes numbered in a ring. -/
def column (w : Word) (c : Nat) (q : Fin 4) : Byte :=
  byteAt w (4 * c + q)

/-- The matrix of R74, each of whose rows is the one above it turned by one place. -/
def mixRing (a : Fin 4 → Byte) (q : Fin 4) : Byte :=
  mul2 (a q) ^^^ mul3 (a (q + 1)) ^^^ a (q + 2) ^^^ a (q + 3)

theorem column_mixColumns (w : Word) {c : Nat} (hc : c < 4) :
    column (mixColumns w) c = mixRing (column w c) := by
  obtain ⟨h0, h1, h2, h3⟩ := byteAt_mixColumns_column w c hc
  funext q
  match q with
  | 0 => exact h0
  | 1 => simp only [mixRing, column]; exact h1.trans (by ac_rfl)
  | 2 => simp only [mixRing, column]; exact h2.trans (by ac_rfl)
  | 3 => simp only [mixRing, column]; exact h3.trans (by ac_rfl)

/-- The square of the matrix: `I + 4(I + P²)`, `P` the turn of the ring by one place. -/
theorem mixRing_twice (a : Fin 4 → Byte) (q : Fin 4) :
    mixRing (mixRing a) q = a q ^^^ xtime (xtime (a q ^^^ a (q + 2))) := by
  simp only [mixRing, mul2, mul3, xtime_xor, add_assoc, Fin.reduceAdd, add_zero]
  generalize a q = a0, a (q + 1) = a1, a (q + 2) = a2, a (q + 3) = a3
  ac_nf
  simp

/-- The sum of bytes `q` and `q + 2` survives two mixes, so what the first two mixes add to byte `q`
the next two take away. -/
theorem mixRing_four_times (a : Fin 4 → Byte) : mixRing^[4] a = a := by
  funext q
  have hback : q + 2 + 2 = q := by omega
  simp only [Function.iterate_succ, Function.iterate_zero, Function.comp_apply, id_eq,
    mixRing_twice, hback, xtime_xor]
  generalize a q = a0, a (q + 2) = a2
  ac_nf
  simp

theorem column_iterate_mixColumns (w : Word) {c : Nat} (hc : c < 4) (n : Nat) :
    column (mixColumns^[n] w) c = mixRing^[n] (column w c) :=
  Function.Semiconj.iterate_right (f := (column · c)) (fun v => column_mixColumns v hc) n w

theorem mixColumns_four_times (w : Word) : mixColumns^[4] w = w :=
  word_ext _ _ fun k hk => by
    have h : column (mixColumns^[4] w) (k / 4) = column w (k / 4) := by
      rw [column_iterate_mixColumns w (by omega), mixRing_four_times]
    have := congrFun h ⟨k % 4, by omega⟩
    rwa [column, column, Nat.div_add_mod] at this

theorem mixColumns_bijective : Function.Bijective mixColumns :=
  bijective_of_iterate_succ (n := 3) mixColumns_four_times

/-- Settles O4. -/
theorem mixColumnsMixesEachColumn : Obligations.MixColumnsMixesEachColumn := by
  refine ⟨byteAt_mixColumns_column, fun w c a hc ha q hq => ?_, by decide +kernel,
    by decide +kernel⟩
  have hequal : column w c = fun _ => a := funext fun q => ha q q.isLt
  have h := congrFun (column_mixColumns w hc) ⟨q, hq⟩
  rw [hequal] at h
  exact h.trans (by simp [mixRing, mul2, mul3])

/-! ## The rounds (R76, R77) -/

theorem addRoundKey_bijective (k : Word) : Function.Bijective (addRoundKey · k) :=
  Function.Involutive.bijective fun w => xor_cancel_right w k

theorem aesRound_bijective (k : Word) : Function.Bijective (aesRound · k) :=
  (addRoundKey_bijective k).comp <| mixColumns_bijective.comp <|
    shiftRows_bijective.comp subBytes_bijective

theorem aesFinalRound_bijective (k : Word) : Function.Bijective (aesFinalRound · k) :=
  (addRoundKey_bijective k).comp <| shiftRows_bijective.comp subBytes_bijective

/-- Settles O5. -/
theorem aesRoundIsBijectiveUnderEachKey : Obligations.AesRoundIsBijectiveUnderEachKey := by
  refine ⟨fun _ _ => rfl, by decide +kernel, fun x k k' => ?_, aesRound_bijective,
    by decide +kernel, by decide +kernel⟩
  rw [aesRound, aesRound, addRoundKey, addRoundKey, BitVec.xor_comm _ k, BitVec.xor_assoc,
    xor_cancel_left]

/-! ## encrypt and permute_truncated (R78, R79) -/

/-- By induction on the number of rounds after whitening. -/
theorem whitenedRounds_bijective {m : Nat} (w : Vector Word m) (n : Nat) :
    Function.Bijective fun b => whitenedRounds w b n := by
  induction n with
  | zero => exact addRoundKey_bijective _
  | succ n ih => exact (aesRound_bijective _).comp ih

/-- Settles O6. -/
theorem encryptIsBijectiveUnderEachSchedule : Obligations.EncryptIsBijectiveUnderEachSchedule := by
  refine ⟨fun _ _ => rfl, fun k b => ?_,
    fun k => (aesFinalRound_bijective k[10]).comp (whitenedRounds_bijective k 9),
    by decide +kernel, by decide +kernel, by decide +kernel, by decide +kernel, by decide +kernel⟩
  simp [encrypt, whitenedRounds, addRoundKey]

/-- Settles O7. -/
theorem permuteTruncatedIsBijectiveUnderEachWindow :
    Obligations.PermuteTruncatedIsBijectiveUnderEachWindow := by
  refine ⟨fun w b => ?_,
    fun w => (aesRound_bijective zeroWord).comp (whitenedRounds_bijective w 9),
    by decide +kernel, by decide +kernel⟩
  simp [permuteTruncated, whitenedRounds, addRoundKey]

end Sys2Proof.Machine
end

section
/-! PROOF SUPPORT. The key schedule: the parts of the recurrence on words of four bytes (R90, R91),
and the recurrence of one round carried to the whole schedule (R92). -/

namespace Sys2Proof.Machine

/-! ## The parts of the recurrence (R90, R91) -/

/-- A rotation by one byte takes the first byte to the end. -/
theorem rotWord_append (a : Byte) (b : BitVec 24) : rotWord (a ++ b) = (b ++ a : KeyWord32) := by
  apply BitVec.eq_of_getLsbD_eq
  intro i hi
  rw [rotWord, BitVec.getLsbD_rotateLeft, BitVec.getLsbD_append, BitVec.getLsbD_append,
    BitVec.getLsbD_append]
  by_cases hlow : i < 8
  · simp [hlow]
  · have hsrc : i - 8 < 24 := by omega
    simp [hlow, hi, hsrc]

theorem rotWord_append_bytes (a0 a1 a2 a3 : Byte) :
    rotWord (a0 ++ a1 ++ a2 ++ a3 : KeyWord32) = (a1 ++ a2 ++ a3 ++ a0 : KeyWord32) := by
  have hassoc : (a0 ++ a1 ++ a2 ++ a3 : KeyWord32) = a0 ++ (a1 ++ a2 ++ a3) := by
    simp only [BitVec.append_assoc, BitVec.cast_eq]
  rw [hassoc]
  exact rotWord_append a0 (a1 ++ a2 ++ a3)

/-- Part `k` of four parts of one width put together: the bytes of a key-schedule word, the words of
a round key. -/
theorem extractLsb'_append_four {w : Nat} (x0 x1 x2 x3 : BitVec w) (k : Nat) (hk : k < 4) :
    (x0 ++ x1 ++ x2 ++ x3).extractLsb' (w * (3 - k)) w = [x0, x1, x2, x3][k] := by
  match k with
  | 0 =>
    rw [show w * (3 - 0) = w + w + w by omega, BitVec.extractLsb'_append_eq_of_le (by omega),
      BitVec.extractLsb'_append_eq_of_le (by omega), Nat.add_sub_cancel, Nat.add_sub_cancel]
    exact BitVec.extractLsb'_append_eq_left
  | 1 =>
    rw [show w * (3 - 1) = w + w by omega, BitVec.extractLsb'_append_eq_of_le (by omega),
      BitVec.extractLsb'_append_eq_of_le (by omega), Nat.add_sub_cancel, Nat.sub_self]
    exact BitVec.extractLsb'_append_eq_right
  | 2 =>
    rw [show w * (3 - 2) = w by omega, BitVec.extractLsb'_append_eq_of_le le_rfl, Nat.sub_self]
    exact BitVec.extractLsb'_append_eq_right
  | 3 => exact BitVec.extractLsb'_append_eq_right

theorem subWord_append_bytes (a0 a1 a2 a3 : Byte) :
    subWord (a0 ++ a1 ++ a2 ++ a3 : KeyWord32) =
      (sbox a0 ++ sbox a1 ++ sbox a2 ++ sbox a3 : KeyWord32) := by
  have h0 : (a0 ++ a1 ++ a2 ++ a3 : KeyWord32).extractLsb' 24 8 = a0 :=
    extractLsb'_append_four a0 a1 a2 a3 0 (by omega)
  have h1 : (a0 ++ a1 ++ a2 ++ a3 : KeyWord32).extractLsb' 16 8 = a1 :=
    extractLsb'_append_four a0 a1 a2 a3 1 (by omega)
  have h2 : (a0 ++ a1 ++ a2 ++ a3 : KeyWord32).extractLsb' 8 8 = a2 :=
    extractLsb'_append_four a0 a1 a2 a3 2 (by omega)
  have h3 : (a0 ++ a1 ++ a2 ++ a3 : KeyWord32).extractLsb' 0 8 = a3 :=
    extractLsb'_append_four a0 a1 a2 a3 3 (by omega)
  rw [subWord, h0, h1, h2, h3]

theorem xor_append_bytes (a0 a1 a2 a3 b0 b1 b2 b3 : Byte) :
    (a0 ++ a1 ++ a2 ++ a3 : KeyWord32) ^^^ (b0 ++ b1 ++ b2 ++ b3 : KeyWord32) =
      ((a0 ^^^ b0) ++ (a1 ^^^ b1) ++ (a2 ^^^ b2) ++ (a3 ^^^ b3) : KeyWord32) := by
  rw [← BitVec.xor_append, ← BitVec.xor_append]
  exact BitVec.xor_append

theorem rcon_succ (r : Nat) : rcon (r + 1) =
    (roundConstant r ++ (0x00 : Byte) ++ (0x00 : Byte) ++ (0x00 : Byte) : KeyWord32) := by
  rw [rcon, BitVec.append_assoc, BitVec.append_assoc]
  rfl

/-- Settles O8: each part on four bytes put together, and the quoted values by evaluation. -/
theorem keyScheduleParts : Obligations.KeyScheduleParts :=
  ⟨fun a0 a1 a2 a3 => ⟨rotWord_append_bytes a0 a1 a2 a3, subWord_append_bytes a0 a1 a2 a3⟩,
    xor_append_bytes, by decide +kernel, by decide +kernel, rcon_succ, rfl, fun _ => rfl,
    by decide⟩

/-! ## The recurrence (R92) -/

/-- Word `q` of four words put together. -/
theorem keyWord_append (w0 w1 w2 w3 : KeyWord32) (q : Nat) (hq : q < 4) :
    keyWord (w0 ++ w1 ++ w2 ++ w3) q = [w0, w1, w2, w3][q] :=
  extractLsb'_append_four w0 w1 w2 w3 q hq

theorem keyWord_nextRoundKey_zero (r : Nat) (prev : Word) :
    keyWord (nextRoundKey r prev) 0 =
      keyWord prev 0 ^^^ subWord (rotWord (keyWord prev 3)) ^^^ rcon r :=
  keyWord_append _ _ _ _ 0 (by omega)

theorem keyWord_nextRoundKey_succ (r : Nat) (prev : Word) {q : Nat} (hq : q < 3) :
    keyWord (nextRoundKey r prev) (q + 1) =
      keyWord (nextRoundKey r prev) q ^^^ keyWord prev (q + 1) := by
  rw [nextRoundKey, keyWord_append _ _ _ _ (q + 1) (by omega), keyWord_append _ _ _ _ q (by omega)]
  match q with
  | 0 | 1 | 2 => rfl

theorem expand_zero (key : Word) : (expand key)[0] = key :=
  Vector.getElem_ofFn _

theorem expand_succ (key : Word) {r : Nat} (hr : r < 10) :
    (expand key)[r + 1] = nextRoundKey (r + 1) (expand key)[r] := by
  simp [expand, roundKey]

/-- Settles O9, from the recurrence of one round, and the quoted values by evaluation. -/
theorem expandFollowsTheRecurrence : Obligations.ExpandFollowsTheRecurrence := by
  refine ⟨fun key => ⟨expand_zero key, fun r hr => ?_⟩,
    by decide +kernel, by decide +kernel, by decide +kernel⟩
  rw [expand_succ key hr]
  exact ⟨keyWord_nextRoundKey_zero _ _, fun _ => keyWord_nextRoundKey_succ _ _⟩

end Sys2Proof.Machine
end

section
/-! PROOF SUPPORT. The context derivation (R100 to R106): the counter blocks are different words, so
are their encryptions, and what each of the five rows of a DERIVE leaves in the state. -/

namespace Sys2Proof.Machine

/-! ## Counter blocks and the words made of them (R100) -/

theorem leBytes_zero (k : Nat) : leBytes k 0 = List.replicate k 0x00 := by
  induction k with
  | zero => rfl
  | succ k ih => rw [leBytes, Nat.zero_div, ih]; rfl

/-- A counter of one byte stands in byte 0 of its block. -/
theorem wordBytes_counterBlock {c : Nat} (hc : c < 256) :
    wordBytes (counterBlock Config.params c) = BitVec.ofNat 8 c :: List.replicate 15 0x00 := by
  have hblock : counterBlock Config.params c = wordOfBytes (leBytes 16 c) := rfl
  rw [hblock, wordBytes_wordOfBytes _ (leBytes_length 16 c), leBytes, Nat.div_eq_of_lt hc,
    leBytes_zero]

theorem counterBlock_injOn : Set.InjOn (counterBlock Config.params) {c | c < 256} := by
  intro c hc d hd h
  have hbytes := congrArg wordBytes h
  rw [wordBytes_counterBlock hc, wordBytes_counterBlock hd] at hbytes
  have hbyte := congrArg BitVec.toNat (List.cons_eq_cons.1 hbytes).1
  rwa [BitVec.toNat_ofNat, BitVec.toNat_ofNat, Nat.mod_eq_of_lt hc, Nat.mod_eq_of_lt hd] at hbyte

/-- Different counters give different words under one schedule (R78, R100). -/
theorem derivedWord_injOn (ki : Vector Word 11) : Set.InjOn (derivedWord ki) {c | c < 256} :=
  (encryptIsBijectiveUnderEachSchedule.2.2.1 ki).injective.comp_injOn counterBlock_injOn

/-! ## The Context of a key (R106) -/

/-- The words of a Context that are made directly from a counter, in the order of the counters. -/
theorem deriveContext_words (key : Word) :
    (deriveContext key).init.toList ++ (deriveContext key).pool.toList ++
        [(deriveContext key).fk1[0], (deriveContext key).fk2[0]] =
      (List.range 29).map (derivedWord (expand key)) := by
  have hrange : List.range 29 =
      (List.finRange 9).map (·.val) ++ (List.finRange 18).map (·.val + 9) ++ [27, 28] := by decide
  simp only [hrange, deriveContext, expand_zero, Vector.toList_ofFn, List.ofFn_eq_map,
    List.map_append, List.map_map, List.map_cons, List.map_nil]
  rfl

/-- Settles O10: the words are the encryptions of 29 different counter blocks under one schedule. -/
theorem derivedWordsAreDistinct : Obligations.DerivedWordsAreDistinct := by
  intro key
  rw [deriveContext_words]
  refine List.nodup_range.map_on fun c hc d hd h => ?_
  rw [List.mem_range] at hc hd
  exact derivedWord_injOn _ (show c < 256 by omega) (show d < 256 by omega) h

/-! ## The rows of a DERIVE (R101 to R105) -/

theorem readKi_of_some {s : State} {ki : Vector Word 11} (h : s.ki = some ki) : s.readKi = ki := by
  rw [State.readKi, h, Option.getD_some]

theorem readC_of_some {s : State} {c : Nat} (h : s.c = some c) : s.readC = c := by
  rw [State.readC, h, Option.getD_some]

theorem readKey_of_some {s : State} {key : Word} (h : s.key = some key) : s.readKey = key := by
  rw [State.readKey, h, Option.getD_some]

/-- A write to an index of the store needs no check of its bounds. -/
theorem setIfInBounds_of_lt {α : Type} {n i : Nat} (v : Vector α n) (x : α) (h : i < n) :
    v.setIfInBounds i x = v.set i x h :=
  Vector.ext fun j hj => by rw [Vector.getElem_setIfInBounds, Vector.getElem_set]

/-- A write of a word of `init` that exists changes that word and nothing else. -/
theorem writeInit_of_lt (s : State) {c : Nat} (w : Word) (hc : c < 9) :
    s.writeInit c w = { s with ctxInit := s.ctxInit.set c (some w) hc } := by
  rw [State.writeInit, setIfInBounds_of_lt _ _ hc]

/-- A write of a word of the pool that exists changes that word and nothing else. -/
theorem writePool_of_lt (s : State) {k : Nat} (w : Word) (hk : k < 18) :
    s.writePool (k + 9) w = { s with ctxPool := s.ctxPool.set k (some w) hk } := by
  rw [State.writePool, if_pos (Nat.le_add_left 9 k), Nat.add_sub_cancel,
    setIfInBounds_of_lt _ _ hk]

/-- Settles O11. -/
theorem ctxKsExpandsTheKey : Obligations.CtxKsExpandsTheKey := by
  refine ⟨rfl, fun s key hkey => ?_, by decide +kernel, by decide +kernel⟩
  have hexec : exec .ctxKs s = execCtxKs s := rfl
  rw [hexec, execCtxKs, readKey_of_some hkey]
  rfl

/-- Settles O12. -/
theorem ctxInitWritesOneInitWord : Obligations.CtxInitWritesOneInitWord := by
  refine ⟨fun c hc => wordBytes_counterBlock (by omega), fun s ki c hc hki hcount => ?_⟩
  have hexec : exec .ctxInit s = execCtxInit s := rfl
  rw [hexec, execCtxInit, readKi_of_some hki, readC_of_some hcount, writeInit_of_lt s _ hc]
  rfl

/-- Settles O13: pool word `k` is made from counter `k + 9`. -/
theorem ctxPoolWritesOnePoolWord : Obligations.CtxPoolWritesOnePoolWord := by
  intro s ki k hk hki hcount
  have hexec : exec .ctxPool s = execCtxPool s := rfl
  have hlast : (k + 9 + 1 ≤ 26) = (k < 17) := propext (by omega)
  rw [hexec, execCtxPool, readKi_of_some hki, readC_of_some hcount, writePool_of_lt s _ hk]
  simp only [hlast]
  rfl

/-- Settles O14. -/
theorem ctxFk1WritesTheFirstFinalizationSchedule :
    Obligations.CtxFk1WritesTheFirstFinalizationSchedule := by
  intro s ki hki
  have hexec : exec .ctxFk1 s = execCtxFk1 s := rfl
  refine ⟨?_, expand_zero _⟩
  rw [hexec, execCtxFk1, readKi_of_some hki]
  rfl

/-- Settles O15: a sound state stays sound, and `CTX_VALID` is 1 only over a whole Context. -/
theorem ctxFk2PublishesTheContext : Obligations.CtxFk2PublishesTheContext := by
  intro s ki hki
  have hexec : exec .ctxFk2 s = execCtxFk2 s := rfl
  rw [hexec]
  refine ⟨?_, fun hs hp t ht => ?_⟩
  · rw [execCtxFk2, readKi_of_some hki]
    rfl
  · obtain ⟨_, hslot, _⟩ := (sound_iff t).1 (sound_ctxFk2 hs hp ht)
    cases ht
    exact hslot rfl

end Sys2Proof.Machine
end

section
/-! PROOF SUPPORT. The values that the stores hold: what a row makes of the words, the register, the
history and the accumulator, and that every step keeps them those of the contract's functions. -/

namespace Sys2Proof.Machine

/-! ## What each phase asks of the values -/

/-- The phases with no command in flight, and the two of a MAC that come before its first round: they
ask for the slot alone. -/
def slotPhases : List Phase :=
  [.idle, .faultHalt, .macCheck, .auLoad]

/-- The phases whose rows are a round of the absorption that sets `t` (R112 to R118). -/
def countedRoundPhases : List Phase :=
  [.auWarmup1, .auWarmup2, .auWarmup3, .auSteady, .auPad, .auDrain1, .auDrain2]

theorem faithful_slot {s : State} (hp : s.phase ∈ slotPhases) :
    s.faithful ↔ (s.ctxValid = true → s.derivedSlot) := by
  simp only [slotPhases, List.mem_cons, List.not_mem_nil, or_false] at hp
  obtain hp | hp | hp | hp := hp <;> rw [State.faithful, hp]

theorem faithful_ctxInit {s : State} (hp : s.phase = .ctxInit) :
    s.faithful ↔ s.derivingTo s.readC 0 := by
  rw [State.faithful, hp]

theorem faithful_ctxPool {s : State} (hp : s.phase = .ctxPool) :
    s.faithful ↔ s.derivingTo 9 (s.readC - 9) := by
  rw [State.faithful, hp]

theorem faithful_ctxFk1 {s : State} (hp : s.phase = .ctxFk1) :
    s.faithful ↔ s.derivingTo 9 18 := by
  rw [State.faithful, hp]

theorem faithful_ctxFk2 {s : State} (hp : s.phase = .ctxFk2) :
    s.faithful ↔
      s.derivingTo 9 18 ∧ s.readFk1 = expand (derivedWord (expand s.readKey) 27) := by
  rw [State.faithful, hp]

theorem faithful_round {s : State} (hp : s.phase ∈ countedRoundPhases ∨ s.phase = .auDrain3) :
    s.faithful ↔ s.derivedSlot ∧ s.absorbedTo s.readT := by
  simp only [countedRoundPhases, List.mem_cons, List.not_mem_nil, or_false] at hp
  obtain (hp | hp | hp | hp | hp | hp | hp) | hp := hp <;> rw [State.faithful, hp]

theorem faithful_finNonce {s : State} (hp : s.phase = .finNonce) :
    s.faithful ↔ s.derivedSlot ∧ s.absorbedTo (s.padIndex + 4) := by
  rw [State.faithful, hp]

theorem faithful_fold {s : State} (hp : s.phase = .finFold ∨ s.phase = .finTag) :
    s.faithful ↔ s.derivedSlot ∧ s.absorbedTo (s.padIndex + 4) ∧
      s.readT0 = foldedTo s.context s.readX s.readNonce s.readI := by
  obtain hp | hp := hp <;> rw [State.faithful, hp]

/-! ## The words of a DERIVE (R101 to R106) -/

/-- CTX.INIT makes the next word of `init` that the key's Context has (R102). -/
theorem derivingTo_writeInit {s : State} {c : Nat} (hc : c < 9) (h : s.derivingTo c 0) :
    (s.writeInit c (derivedWord s.readKi c)).derivingTo (c + 1) 0 := by
  obtain ⟨hki, hinit, hpool⟩ := h
  refine ⟨hki, fun j hj => ?_, hpool⟩
  obtain hlt | rfl := Nat.lt_succ_iff_lt_or_eq.1 hj
  · rw [readInit_writeInit_ne s c j _ (by omega)]
    exact hinit j hlt
  · rw [readInit_writeInit_same s j _ hc, hki]
    rfl

/-- CTX.POOL makes the next word of the pool that the key's Context has (R103). -/
theorem derivingTo_writePool {s : State} {k : Nat} (hk : k < 18) (h : s.derivingTo 9 k) :
    (s.writePool (k + 9) (derivedWord s.readKi (k + 9))).derivingTo 9 (k + 1) := by
  obtain ⟨hki, hinit, hpool⟩ := h
  refine ⟨hki, hinit, fun j hj => ?_⟩
  obtain hlt | rfl := Nat.lt_succ_iff_lt_or_eq.1 hj
  · rw [readPool_writePool_ne s (k + 9) j _ (by omega)]
    exact hpool j hlt
  · have hsame := readPool_writePool_same s (j + 9) (derivedWord s.readKi (j + 9)) (by omega)
      (by omega)
    rw [Nat.add_sub_cancel] at hsame
    rw [hsame, hki]
    rfl

/-- The 27 words and the two schedules are the whole Context of the key (R106). -/
theorem context_of_derivingTo {s : State} (h : s.derivingTo 9 18)
    (hfk1 : s.readFk1 = expand (derivedWord (expand s.readKey) 27))
    (hfk2 : s.readFk2 = expand (derivedWord (expand s.readKey) 28)) :
    s.context = deriveContext s.readKey := by
  obtain ⟨_, hinit, hpool⟩ := h
  rw [State.context, deriveContext, hfk1, hfk2, Context.mk.injEq]
  exact ⟨Vector.ext fun j hj => by simp [hinit j hj], Vector.ext fun k hk => by simp [hpool k hk],
    rfl, rfl⟩

/-- CTX.KS makes the schedule; no word of the Context is made yet (R101). -/
theorem faithful_of_ctxKs {s t : State} (h : execCtxKs s = .next t) : t.faithful := by
  cases h
  exact (faithful_ctxInit rfl).2
    ⟨rfl, fun _ hj => (Nat.not_lt_zero _ hj).elim, fun _ hk => (Nat.not_lt_zero _ hk).elim⟩

theorem faithful_of_ctxInit {s t : State} (hs : s.sound = true) (hf : s.faithful)
    (hp : s.phase = .ctxInit) (h : execCtxInit s = .next t) : t.faithful := by
  cases h
  obtain ⟨_, _, _, hc, _⟩ := (staged_ctxInit hp).1 ((sound_iff s).1 hs).1
  have hmade := derivingTo_writeInit (Nat.lt_succ_of_le hc) ((faithful_ctxInit hp).1 hf)
  split
  case isTrue => exact (faithful_ctxInit rfl).2 hmade
  case isFalse hgt =>
    have h8 : s.readC = 8 := by omega
    rw [h8] at hmade ⊢
    exact (faithful_ctxPool rfl).2 hmade

theorem faithful_of_ctxPool {s t : State} (hs : s.sound = true) (hf : s.faithful)
    (hp : s.phase = .ctxPool) (h : execCtxPool s = .next t) : t.faithful := by
  cases h
  obtain ⟨_, _, _, h9, hc, _⟩ := (staged_ctxPool hp).1 ((sound_iff s).1 hs).1
  obtain ⟨k, hk⟩ := Nat.exists_eq_add_of_le' h9
  have hdone := (faithful_ctxPool hp).1 hf
  rw [hk, Nat.add_sub_cancel] at hdone
  have hmade := derivingTo_writePool (by omega) hdone
  rw [hk]
  split
  case isTrue => exact (faithful_ctxPool rfl).2 hmade
  case isFalse hgt =>
    have h17 : k = 17 := by omega
    rw [h17] at hmade ⊢
    exact (faithful_ctxFk1 rfl).2 hmade

theorem faithful_of_ctxFk1 {s t : State} (hf : s.faithful) (hp : s.phase = .ctxFk1)
    (h : execCtxFk1 s = .next t) : t.faithful := by
  cases h
  have hdone := (faithful_ctxFk1 hp).1 hf
  exact (faithful_ctxFk2 rfl).2 ⟨hdone, congrArg (fun ki => expand (derivedWord ki 27)) hdone.1⟩

/-- CTX.FK2 leaves the Context of the key in the slot, while the latch of the key is dropped
(R105). -/
theorem faithful_of_ctxFk2 {s t : State} (hf : s.faithful) (hp : s.phase = .ctxFk2)
    (h : execCtxFk2 s = .next t) : t.faithful := by
  cases h
  obtain ⟨hdone, hfk1⟩ := (faithful_ctxFk2 hp).1 hf
  have hctx := context_of_derivingTo
    (s := s.writeFk2 (expand (derivedWord s.readKi Config.ctrFk2))) hdone hfk1
    (congrArg (fun ki => expand (derivedWord ki 28)) hdone.1)
  exact (faithful_slot (by simp [slotPhases])).2 fun _ => ⟨s.readKey, hctx⟩

/-! ## The rounds of a MAC (R112 to R122) -/

/-- The latched length is that of the message, so both give one padding index (R35). -/
theorem padIndex_of_macAccepted {s : State} (h : s.macAccepted = true) :
    s.padIndex = nfull s.readMsg.length := by
  obtain ⟨hlatched, _⟩ := (macAccepted_iff s).1 h
  obtain ⟨_, _, _, _, hlen⟩ := (macLatched_iff s).1 hlatched
  rw [State.padIndex, hlen]

/-- In a phase that asks for one value of `t`, `t` is that value, and both lengths of the message
give one padding index. -/
theorem readT_of_sound {s : State} {p : Phase} {n : Nat} (hs : s.sound = true) (hp : s.phase = p)
    (hstaged : (s.setPhase p).staged = s.absorbing (· == n)) :
    s.readT = n ∧ s.padIndex = nfull s.readMsg.length := by
  obtain ⟨hacc, _, _, _, ht, _⟩ := (absorbing_iff s _).1 (hstaged ▸ staged_of_sound hs hp)
  exact ⟨beq_iff_eq.1 ht, padIndex_of_macAccepted hacc⟩

/-- A row that is round `n` by the one formula is round `t` where it finds `n` in `t`. -/
theorem step_round_of_exec {s : State} {p q : Phase} {n : Nat} (hp : s.phase = p) (hidle : p ≠ .idle)
    (ht : s.readT = n) (hq : q ∈ countedRoundPhases ∨ q = .auDrain3)
    (hexec : exec (phaseInstr p) s = .next (((s.uniformAbsorb n).setT (n + 1)).setPhase q)) :
    ∃ q, (q ∈ countedRoundPhases ∨ q = .auDrain3) ∧
      step s = .next (((s.uniformAbsorb s.readT).setT (s.readT + 1)).setPhase q) :=
  ⟨q, hq, by rw [step_of_phase hp hidle, ht, hexec]⟩

/-- Every row that sets `t` is round `t` by the one formula, and leads to another round (R120,
R144). -/
theorem step_countedRound {s : State} (hs : s.sound = true) (hp : s.phase ∈ countedRoundPhases) :
    ∃ q, (q ∈ countedRoundPhases ∨ q = .auDrain3) ∧
      step s = .next (((s.uniformAbsorb s.readT).setT (s.readT + 1)).setPhase q) := by
  simp only [countedRoundPhases, List.mem_cons, List.not_mem_nil, or_false] at hp
  obtain hp | hp | hp | hp | hp | hp | hp := hp
  · obtain ⟨ht, _⟩ := readT_of_sound hs hp rfl
    exact step_round_of_exec hp (by decide) ht (by decide) (execAuWarmup1_eq s)
  · obtain ⟨ht, _⟩ := readT_of_sound hs hp rfl
    exact step_round_of_exec hp (by decide) ht (by decide) (execAuWarmup2_eq s)
  · obtain ⟨ht, _⟩ := readT_of_sound hs hp rfl
    exact step_round_of_exec hp (by decide) ht (by split <;> decide) (execAuWarmup3_eq s)
  · exact step_round_of_exec hp (by decide) rfl (by split <;> decide) (execAuSteady_eq s)
  · obtain ⟨ht, _⟩ := readT_of_sound (n := s.padIndex) hs hp rfl
    exact step_round_of_exec (q := .auDrain1) hp (by decide) rfl (by decide)
      ((execAuPad_eq s).trans (by rw [ht]))
  · obtain ⟨ht, hP⟩ := readT_of_sound (n := s.padIndex + 1) hs hp rfl
    exact step_round_of_exec (q := .auDrain2) hp (by decide) rfl (by decide)
      ((execAuDrain1_eq hP).trans (by rw [ht]))
  · obtain ⟨ht, hP⟩ := readT_of_sound (n := s.padIndex + 2) hs hp rfl
    exact step_round_of_exec (q := .auDrain3) hp (by decide) rfl (by decide)
      ((execAuDrain2_eq hP).trans (by rw [ht]))

/-- Round `n` on the register and the history of the first `n` rounds gives those of `n + 1`. -/
theorem absorbedTo_uniformAbsorb {s : State} {n : Nat} (h : s.absorbedTo n) :
    (s.uniformAbsorb n).absorbedTo (n + 1) := by
  obtain ⟨hx, hhist⟩ := h
  refine ⟨congrArg (uniformRound Config.params s.readMsg n) hx, ?_⟩
  exact congrArg (shiftHist · (s.mw (4 * n)) (s.mw (4 * n + 1)) (s.mw (4 * n + 2))
    (s.mw (4 * n + 3))) hhist

/-- What has been absorbed does not depend on the counter and the phase. -/
theorem absorbedTo_setPhase (s : State) (n : Nat) (p : Phase) :
    (s.setPhase p).absorbedTo n ↔ s.absorbedTo n := Iff.rfl

theorem absorbedTo_setT (s : State) (n m : Nat) :
    (s.setT m).absorbedTo n ↔ s.absorbedTo n := Iff.rfl

theorem faithful_of_countedRound {s t : State} (hs : s.sound = true) (hf : s.faithful)
    (hp : s.phase ∈ countedRoundPhases) (h : step s = .next t) : t.faithful := by
  obtain ⟨q, hq, hstep⟩ := step_countedRound hs hp
  obtain ⟨hslot, habs⟩ := (faithful_round (.inl hp)).1 hf
  cases hstep.symm.trans h
  refine (faithful_round hq).2 ⟨hslot, ?_⟩
  exact (absorbedTo_setPhase _ _ q).2
    ((absorbedTo_setT _ _ (s.readT + 1)).2 (absorbedTo_uniformAbsorb habs))

/-- AU.LOAD takes the register of the Context in the slot, which a MAC in flight has (R121). -/
theorem faithful_of_auLoad {s t : State} (hs : s.sound = true) (hf : s.faithful)
    (hp : s.phase = .auLoad) (h : execAuLoad s = .next t) : t.faithful := by
  cases h
  obtain ⟨hacc, _⟩ := (staged_auLoad hp).1 ((sound_iff s).1 hs).1
  obtain ⟨_, hv, _⟩ := (macAccepted_iff s).1 hacc
  have hslot := (faithful_slot (by simp [slotPhases, hp])).1 hf hv
  exact (faithful_round (.inl (by simp [countedRoundPhases]))).2 ⟨hslot, rfl, rfl⟩

/-- AU.DRAIN3 is round `nfull + 3`, the last: the register then holds the digest (R119, R123). -/
theorem faithful_of_auDrain3 {s t : State} (hs : s.sound = true) (hf : s.faithful)
    (hp : s.phase = .auDrain3) (h : execAuDrain3 s = .next t) : t.faithful := by
  obtain ⟨ht, hP⟩ := readT_of_sound (n := s.padIndex + 3) hs hp rfl
  obtain ⟨hslot, habs⟩ := (faithful_round (.inr hp)).1 hf
  cases (execAuDrain3_eq hP).symm.trans h
  rw [ht] at habs
  exact (faithful_finNonce rfl).2
    ⟨hslot, (absorbedTo_setPhase _ _ .finNonce).2 (absorbedTo_uniformAbsorb habs)⟩

/-! ## The finalizer (R131 to R133) -/

/-- FIN.NONCE whitens the nonce under `fk1` of the slot: the accumulator before the first fold. -/
theorem faithful_of_finNonce {s t : State} (hf : s.faithful) (hp : s.phase = .finNonce)
    (h : execFinNonce s = .next t) : t.faithful := by
  cases h
  obtain ⟨hslot, habs⟩ := (faithful_finNonce hp).1 hf
  exact (faithful_fold (.inl rfl)).2 ⟨hslot, habs, rfl⟩

theorem contextWindow_context (s : State) (i : Fin 9) :
    contextWindow s.context i = s.window i.val := by
  simp [contextWindow, State.window, State.context]

/-- A fold takes the digest word of its index under the window of the pool (R132). -/
theorem foldedTo_succ (s : State) {n : Nat} (hn : n < 9) (nonce : Word) :
    foldedTo s.context s.readX nonce (n + 1) =
      foldedTo s.context s.readX nonce n ^^^ permuteTruncated (s.window n) (s.readRole n) := by
  rw [foldedTo, dif_pos hn, contextWindow_context, readRole_of_lt s n hn]

theorem faithful_of_finFold {s t : State} (hs : s.sound = true) (hf : s.faithful)
    (hp : s.phase = .finFold) (h : execFinFold s = .next t) : t.faithful := by
  cases h
  obtain ⟨_, _, _, _, _, hi⟩ := (staged_finFold hp).1 ((sound_iff s).1 hs).1
  obtain ⟨hslot, habs, ht0⟩ := (faithful_fold (.inl hp)).1 hf
  have hfold := foldedTo_succ s (Nat.lt_succ_of_le hi) s.readNonce
  rw [← ht0] at hfold
  exact (faithful_fold (by split <;> simp)).2 ⟨hslot, habs, hfold.symm⟩

/-! ## The slot, and every step -/

/-- A state without rounds in flight stays faithful when the slot and its flag stay. -/
theorem faithful_of_slot_kept {s t : State} (hf : s.faithful) (hp : s.phase ∈ slotPhases)
    (hp' : t.phase ∈ slotPhases) (hv : t.ctxValid = s.ctxValid) (hctx : t.context = s.context) :
    t.faithful := by
  refine (faithful_slot hp').2 fun h => ?_
  obtain ⟨key, hkey⟩ := (faithful_slot hp).1 hf (hv ▸ h)
  exact ⟨key, hctx.trans hkey⟩

/-- An accepted DERIVE, which will overwrite the slot, needs no value in it. -/
theorem faithful_acceptCommand {s : State} (hf : s.faithful) (hp : s.phase = .idle) :
    s.acceptCommand.faithful := by
  have hslot : s.phase ∈ slotPhases := by simp [slotPhases, hp]
  obtain ⟨_, h⟩ | ⟨_, _, h⟩ | ⟨_, _, _, _, h⟩ | ⟨_, _, _, _, _, _, h⟩ | ⟨_, _, _, _, h⟩ :=
    acceptCommand_cases s <;> rw [h]
  · exact hf
  · exact hf
  · exact trivial
  · exact faithful_of_slot_kept hf hslot (by simp [slotPhases, State.acceptMac]) rfl rfl
  · exact faithful_of_slot_kept hf hslot (by simp [slotPhases, State.acceptIllegal, State.raise])
      rfl rfl

theorem faithful_of_macCheck {s t : State} (hf : s.faithful) (hp : s.phase = .macCheck)
    (h : execMacCheck s = .next t) : t.faithful := by
  have hslot : s.phase ∈ slotPhases := by simp [slotPhases, hp]
  obtain ⟨_, _, hc⟩ | ⟨_, _, hc⟩ := execMacCheck_cases s <;> cases hc.symm.trans h <;>
    exact faithful_of_slot_kept hf hslot (by simp [slotPhases]) rfl rfl

/-- FIN.TAG leaves the slot, which is that of a key (R133). -/
theorem faithful_of_finTag {s t : State} (hf : s.faithful) (hp : s.phase = .finTag)
    (h : execFinTag s = .next t) : t.faithful := by
  cases h
  obtain ⟨hslot, _⟩ := (faithful_fold (.inr hp)).1 hf
  exact (faithful_slot (by simp [slotPhases])).2 fun _ => hslot

/-- Settles O47, by the row of the phase the step starts in. -/
theorem stepKeepsFaithful : Obligations.StepKeepsFaithful := by
  intro s t hs hf h
  by_cases hround : s.phase ∈ countedRoundPhases
  · exact faithful_of_countedRound hs hf hround h
  rw [step_eq_exec_phase] at h
  cases hp : s.phase <;> rw [hp] at h
  case idle => cases h; exact faithful_acceptCommand hf hp
  case ctxKs => exact faithful_of_ctxKs h
  case ctxInit => exact faithful_of_ctxInit hs hf hp h
  case ctxPool => exact faithful_of_ctxPool hs hf hp h
  case ctxFk1 => exact faithful_of_ctxFk1 hf hp h
  case ctxFk2 => exact faithful_of_ctxFk2 hf hp h
  case macCheck => exact faithful_of_macCheck hf hp h
  case auLoad => exact faithful_of_auLoad hs hf hp h
  case auDrain3 => exact faithful_of_auDrain3 hs hf hp h
  case finNonce => exact faithful_of_finNonce hf hp h
  case finFold => exact faithful_of_finFold hs hf hp h
  case finTag => exact faithful_of_finTag hf hp h
  case faultHalt => cases h; exact hf
  -- The seven rounds that count `t`.
  all_goals exact (hround (by simp [countedRoundPhases, hp])).elim

end Sys2Proof.Machine
end

section
/-! PROOF SUPPORT. The absorption engine row by row (R110 to R121): the round as a bijection of the
register, and what the load and each of the eight rounds make of the stores they find. -/

namespace Sys2Proof.Machine

/-! ## One round (R110, R111) -/

/-- With role 8 as its base, the feedback word is the word that leaves role 8, with `m2` and the tap
XORed in (R110, decision D9). -/
theorem auRound_feedback {p : Params} (hfb : p.fbBase = [8]) (x : Vector Word 9)
    (m0 m1 m2 m3 tap : Word) : (auRound p x m0 m1 m2 m3 tap)[0] = x[8] ^^^ m2 ^^^ tap := by
  have hbase : feedbackBase p x = x[8] := by
    rw [feedbackBase, hfb]
    exact BitVec.zero_xor
  rw [← hbase]
  rfl

/-- The word of role `j` takes its AES round into role `j + 1`, whatever the feedback base. -/
theorem auRound_rotated (p : Params) (x : Vector Word 9) (m0 m1 m2 m3 tap : Word) (j : Nat)
    (hj : j < 8) : (auRound p x m0 m1 m2 m3 tap)[j + 1] =
      aesRound x[j] (selectKey p.keySel[j] m0 m1 m3) := by
  interval_cases j <;> rfl

/-- Roles 0 to 7 are recovered through the AES rounds, role 8 from the feedback word. -/
theorem auRound_injective {p : Params} (hfb : p.fbBase = [8]) (m0 m1 m2 m3 tap : Word) :
    Function.Injective fun x => auRound p x m0 m1 m2 m3 tap := by
  intro x y hxy
  have hword (k : Nat) (hk : k < 9) :
      (auRound p x m0 m1 m2 m3 tap)[k] = (auRound p y m0 m1 m2 m3 tap)[k] :=
    congrArg (fun r : Vector Word 9 => r[k]) hxy
  refine Vector.ext fun j hj => ?_
  obtain hj8 | rfl : j < 8 ∨ j = 8 := by omega
  · have hround := hword (j + 1) (by omega)
    rw [auRound_rotated p x _ _ _ _ _ j hj8, auRound_rotated p y _ _ _ _ _ j hj8] at hround
    exact (aesRound_bijective _).injective hround
  · have hfeedback := hword 0 (by omega)
    rw [auRound_feedback hfb, auRound_feedback hfb] at hfeedback
    exact (BitVec.xor_left_inj _).1 ((BitVec.xor_left_inj _).1 hfeedback)

/-- Every register is made by a round: the AES rounds are undone in roles 0 to 7, and the tap and
`m2` are XORed out of the feedback word into role 8. -/
theorem auRound_surjective {p : Params} (hfb : p.fbBase = [8]) (m0 m1 m2 m3 tap : Word) :
    Function.Surjective fun x => auRound p x m0 m1 m2 m3 tap := by
  intro y
  choose undo hundo using fun k => (aesRound_bijective k).surjective
  refine ⟨Vector.ofFn fun j => if hj : j.val < 8 then
    undo (selectKey p.keySel[j.val] m0 m1 m3) y[j.val + 1] else y[0] ^^^ tap ^^^ m2, ?_⟩
  refine Vector.ext fun k hk => ?_
  cases k with
  | zero => simp [auRound_feedback hfb, BitVec.xor_assoc]
  | succ j =>
    have hj : j < 8 := by omega
    simp only [auRound_rotated p _ _ _ _ _ _ j hj, Vector.getElem_ofFn, dif_pos hj]
    exact hundo _ _

/-- Settles O16. -/
theorem auRoundRotatesTheRegister : Obligations.AuRoundRotatesTheRegister := by
  refine ⟨fun p x m0 m1 m2 m3 tap hfb =>
      ⟨auRound_feedback hfb x _ _ _ _ _, auRound_rotated p x _ _ _ _ _⟩,
    fun p m0 m1 m2 m3 tap hfb =>
      ⟨auRound_injective hfb _ _ _ _ _, auRound_surjective hfb _ _ _ _ _⟩,
    fun p x m0 m1 m2 m2' m3 tap tap' j hj => ?_, fun x m0 m1 m2 m3 tap => ?_⟩
  · rw [auRound_rotated p x _ _ m2 _ tap j hj, auRound_rotated p x _ _ m2' _ tap' j hj]
  · rw [← auRound_feedback (p := Config.params) rfl x m0 m1 m2 m3 tap]
    rfl

/-! ## The one formula (R120) -/

/-- The register after a round by the one formula of R120. -/
theorem uniformAbsorb_x (s : State) (t : Nat) :
    (s.uniformAbsorb t).x = some (uniformRound Config.params s.readMsg t s.readX) := rfl

/-- Settles O27: the rounds that set `t` are round `t`, and AU.DRAIN3 finds `nfull + 3` in `t`. -/
theorem eightRoundsAreOneFormula : Obligations.EightRoundsAreOneFormula := by
  intro s hs hp
  obtain hcounted | hlast : s.phase ∈ countedRoundPhases ∨ s.phase = .auDrain3 := by
    simpa [countedRoundPhases, or_assoc] using hp
  · obtain ⟨q, _, hstep⟩ := step_countedRound hs hcounted
    exact ⟨_, hstep, uniformAbsorb_x s _⟩
  · obtain ⟨ht, hP⟩ := readT_of_sound (n := s.padIndex + 3) hs hlast rfl
    have hstep : step s = execAuDrain3 s := step_of_phase hlast (by decide)
    exact ⟨_, hstep.trans (execAuDrain3_eq hP), ht ▸ uniformAbsorb_x s _⟩

/-! ## The stores that a round finds -/

theorem readInit_of_map_some {s : State} {v : Vector Word 9} (h : s.ctxInit = v.map some) {j : Nat}
    (hj : j < 9) : s.readInit j = v[j] := by
  simp [State.readInit, h, hj]

theorem readX_of_some {s : State} {x : Vector Word 9} (h : s.x = some x) : s.readX = x := by
  rw [State.readX, h, Option.getD_some]

theorem readHist_of_some {s : State} {v : Vector Word 10} (h : s.hist = some v) :
    s.readHist = v := by
  rw [State.readHist, h, Option.getD_some]

theorem readT_of_some {s : State} {t : Nat} (h : s.t = some t) : s.readT = t := by
  rw [State.readT, h, Option.getD_some]

/-- The message words of the state are those of the message latched (R37). -/
theorem stateMw_of_some {s : State} {m : Memory} (h : s.msg = some m) : s.mw = mw m := by
  funext i
  rw [State.mw, State.readMsg, h, Option.getD_some]

/-- The padding index of the state is that of the length latched (R35). -/
theorem padIndex_of_some {s : State} {len : BitVec 64} (h : s.len = some len) :
    s.padIndex = len.toNat / 64 := by
  rw [State.padIndex, State.readLen, h, Option.getD_some, nfull]

/-- A round on a register and a history that hold values writes those two stores (R110, R21). -/
theorem absorbRound_of_some {s : State} {x : Vector Word 9} {h : Vector Word 10} (hx : s.x = some x)
    (hh : s.hist = some h) (m0 m1 m2 m3 tap : Word) :
    s.absorbRound m0 m1 m2 m3 tap = { s with
      x := some (auRound Config.params x m0 m1 m2 m3 tap)
      hist := some (shiftHist h m0 m1 m2 m3) } := by
  rw [absorbRound_spec, readX_of_some hx, readHist_of_some hh]

/-! ## The load and the eight rounds (R112 to R119, R121) -/

/-- Settles O20. -/
theorem auLoadTakesTheInitialRegister : Obligations.AuLoadTakesTheInitialRegister := by
  intro s v hinit
  have hload : (Vector.ofFn fun j : Fin 9 => s.readInit j) = v :=
    Vector.ext fun j hj => by rw [Vector.getElem_ofFn, readInit_of_map_some hinit hj]
  change execAuLoad s = _
  rw [execAuLoad, hload]
  rfl

/-- Settles O21. -/
theorem auWarmup1AbsorbsBlockZero : Obligations.AuWarmup1AbsorbsBlockZero := by
  refine ⟨rfl, fun s x h m hx hh hm => ⟨?_, ?_⟩⟩
  · change execAuWarmup1 s = _
    rw [execAuWarmup1, stateMw_of_some hm, absorbRound_of_some hx hh]
    rfl
  · rw [auRound_feedback rfl]
    exact BitVec.xor_zero

/-- Settles O22: the three tap words left out would come before the message. -/
theorem auWarmup2AbsorbsBlockOne : Obligations.AuWarmup2AbsorbsBlockOne := by
  intro s x h m hx hh hm
  refine ⟨?_, mw_outside m _ (.inl (by omega)), mw_outside m _ (.inl (by omega)),
    mw_outside m _ (.inl (by omega))⟩
  change execAuWarmup2 s = _
  rw [execAuWarmup2, stateMw_of_some hm, absorbRound_of_some hx hh]
  rfl

/-- Settles O23. -/
theorem auWarmup3AbsorbsBlockTwo : Obligations.AuWarmup3AbsorbsBlockTwo := by
  intro s x h m len hx hh hm hlen
  refine ⟨?_, mw_outside m _ (.inl (by omega))⟩
  change execAuWarmup3 s = _
  rw [execAuWarmup3, stateMw_of_some hm, padIndex_of_some hlen, absorbRound_of_some hx hh]
  rfl

/-- Settles O24. -/
theorem auSteadyAbsorbsBlockT : Obligations.AuSteadyAbsorbsBlockT := by
  intro s x h m len t hx hh hm hlen ht
  change execAuSteady s = _
  rw [execAuSteady, State.fullTap, stateMw_of_some hm, padIndex_of_some hlen,
    readT_of_some ht, absorbRound_of_some hx hh]
  rfl

/-- Settles O25. -/
theorem auPadAbsorbsThePaddingBlock : Obligations.AuPadAbsorbsThePaddingBlock := by
  rintro s x h m len t p hx hh hm hlen ht rfl
  change execAuPad s = _
  rw [execAuPad, State.fullTap, stateMw_of_some hm, padIndex_of_some hlen,
    readT_of_some ht, absorbRound_of_some hx hh]
  rfl

/-- Settles O26: the tap words left out lie behind the padding block of the message. -/
theorem auDrainsApplyTheOutstandingTaps : Obligations.AuDrainsApplyTheOutstandingTaps := by
  rintro s x h m len t p hx hh hm hlen ht rfl
  refine ⟨?_, ?_, ?_, fun hL => ?_⟩
  · change execAuDrain1 s = _
    rw [execAuDrain1, stateMw_of_some hm, padIndex_of_some hlen, readT_of_some ht,
      absorbRound_of_some hx hh]
    rfl
  · change execAuDrain2 s = _
    rw [execAuDrain2, stateMw_of_some hm, padIndex_of_some hlen, readT_of_some ht,
      absorbRound_of_some hx hh]
    rfl
  · change execAuDrain3 s = _
    rw [execAuDrain3, stateMw_of_some hm, padIndex_of_some hlen, absorbRound_of_some hx hh]
    rfl
  · rw [← hL]
    have hbehind (d : Int) (hd : 4 ≤ d) : mw m (4 * (m.length / 64 : Nat) + d) = zeroWord :=
      mw_outside m _ (.inr (by rw [nfull]; omega))
    exact ⟨hbehind 5 (by omega), hbehind 6 (by omega), hbehind 9 (by omega)⟩

end Sys2Proof.Machine
end

section
/-! PROOF SUPPORT. The finalizer row by row (R130 to R133): what FIN.NONCE, FIN.FOLD and FIN.TAG make
of the stores they find. -/

namespace Sys2Proof.Machine

/-! ## The stores that the finalizer finds -/

theorem readFk1_of_some {s : State} {sched : Vector Word 11} (h : s.ctxFk1 = some sched) :
    s.readFk1 = sched := by
  rw [State.readFk1, h, Option.getD_some]

theorem readFk2_of_some {s : State} {sched : Vector Word 11} (h : s.ctxFk2 = some sched) :
    s.readFk2 = sched := by
  rw [State.readFk2, h, Option.getD_some]

theorem readT0_of_some {s : State} {w : Word} (h : s.t0 = some w) : s.readT0 = w := by
  rw [State.readT0, h, Option.getD_some]

theorem readNonce_of_some {s : State} {w : Word} (h : s.nonce = some w) : s.readNonce = w := by
  rw [State.readNonce, h, Option.getD_some]

theorem readI_of_some {s : State} {i : Nat} (h : s.i = some i) : s.readI = i := by
  rw [State.readI, h, Option.getD_some]

theorem readPool_of_map_some {s : State} {pool : Vector Word 18} (h : s.ctxPool = pool.map some)
    {k : Nat} (hk : k < 18) : s.readPool k = pool[k] := by
  simp [State.readPool, h, hk]

/-- The ten words of a window of the pool, for every index a fold can have (R130). -/
theorem window_of_map_some {s : State} {pool : Vector Word 18} (h : s.ctxPool = pool.map some)
    {i : Nat} (hi : i < 9) :
    s.window i = #v[pool[i], pool[i + 1], pool[i + 2], pool[i + 3], pool[i + 4], pool[i + 5],
      pool[i + 6], pool[i + 7], pool[i + 8], pool[i + 9]] := by
  refine Vector.ext fun r hr => ?_
  rw [window_getElem s i r hr, readPool_of_map_some h (show i + r < 18 by omega)]
  interval_cases r <;> rfl

theorem readRole_of_some {s : State} {x : Vector Word 9} (h : s.x = some x) {j : Nat}
    (hj : j < 9) : s.readRole j = x[j] := by
  simp only [readRole_of_lt s j hj, readX_of_some h]

/-! ## The rows (R131 to R133) -/

/-- Settles O29: at index 8, the last, FIN.TAG is next. -/
theorem finFoldFoldsOneDigestWord : Obligations.FinFoldFoldsOneDigestWord := by
  intro s pool x t0 i hi hpool hx ht0 hindex
  have hexec : exec .finFold s = execFinFold s := rfl
  have hlast : (i + 1 ≤ 8) = (i < 8) := propext Nat.succ_le_iff
  rw [hexec, execFinFold, readT0_of_some ht0, readI_of_some hindex, window_of_map_some hpool hi,
    readRole_of_some hx hi]
  simp only [hlast]
  rfl

/-- Settles O28: the row in general, and the known value of R131 evaluated in the kernel. -/
theorem finNonceWhitensTheNonce : Obligations.FinNonceWhitensTheNonce := by
  refine ⟨fun s n fk1 hnonce hfk1 => ?_, by decide +kernel⟩
  have hexec : exec .finNonce s = execFinNonce s := rfl
  rw [hexec, execFinNonce, readNonce_of_some hnonce, readFk1_of_some hfk1]
  rfl

/-- Settles O30: the row in general, and the tag of the zero scenario evaluated in the kernel. -/
theorem finTagAnswersTheTag : Obligations.FinTagAnswersTheTag := by
  refine ⟨fun s t0 fk2 ht0 hfk2 => ?_, by decide +kernel⟩
  have hexec : exec .finTag s = execFinTag s := rfl
  rw [hexec, execFinTag, readT0_of_some ht0, readFk2_of_some hfk2]
  rfl

end Sys2Proof.Machine
end

section
/-! PROOF SUPPORT. Command acceptance (R51 to R53, R140): what the decoder reads at the head of `IN`,
case by case, and what the rows of IDLE make of it; the check of a MAC (R143). -/

namespace Sys2Proof.Machine

/-! ## The head of `IN`, case by case (R51, R52, R53, R55) -/

theorem decodePacket_derive_of_lt {tl : List Byte} (h : tl.length < 16) :
    decodePacket (0x01 :: tl) = .error .deriveIncomplete := by
  simp [decodePacket, h]

theorem decodePacket_derive_of_le {tl : List Byte} (h : 16 ≤ tl.length) :
    decodePacket (0x01 :: tl) = .ok (.derive (wordOfBytes (tl.take 16)), tl.drop 16) := by
  simp [decodePacket, h]

theorem decodePacket_mac_of_header_lt {tl : List Byte} (h : tl.length < 24) :
    decodePacket (0x02 :: tl) = .error .macHeaderIncomplete := by
  simp [decodePacket, h]

/-- Once the header of a MAC is there, the rest of the packet is waited for or it is whole, by the
length that the field `LEN` gives. -/
theorem decodePacket_mac_of_header {tl : List Byte} {len : BitVec 64} (h : 24 ≤ tl.length)
    (hfield : (tl.drop 16).take 8 = leBytes 8 len.toNat) :
    decodePacket (0x02 :: tl) =
      if tl.length < 24 + len.toNat then .error .macMessageIncomplete
      else .ok (.mac (wordOfBytes (tl.take 16)) len ((tl.drop 24).take len.toNat),
        tl.drop (24 + len.toNat)) := by
  have hlen : BitVec.ofNat 64 (leNat ((tl.drop 16).take 8)) = len := by
    rw [hfield, leNat_leBytes_len, BitVec.ofNat_toNat, BitVec.setWidth_eq]
  simp [decodePacket, hlen, Nat.not_lt.2 h]

/-! ## What acceptance makes of it (R140) -/

/-- IDLE waits while no whole packet is there (R53). -/
theorem exec_idle_of_stop {s : State} {e : DecodeStop} (hd : decodePacket s.inp = .error e) :
    exec .idle s = .next s := by
  change execIdle s = _
  rw [execIdle, State.acceptCommand, hd, ite_self]

/-- IDLE does with a whole packet what the command's own row does. -/
theorem exec_idle_of_packet {s : State} {i : Instr} {rest : List Byte}
    (hd : decodePacket s.inp = .ok (i, rest)) : exec .idle s = exec i s := by
  change execIdle s = _
  rw [execIdle, State.acceptCommand, hd]
  obtain ⟨_, _, _, rfl, _⟩ | ⟨_, _, _, _, _, rfl, _⟩ | ⟨_, _, _, _, rfl⟩ := decodePacket_cases hd <;>
    rfl

theorem exec_derive_of_packet {s : State} {key : Word} {rest : List Byte} (hf : s.fault = false)
    (hd : decodePacket s.inp = .ok (.derive key, rest)) :
    exec (.derive key) s = .next { s with key := some key, inp := rest, phase := .ctxKs } := by
  change execDerive key s = _
  rw [execDerive, if_neg (Bool.eq_false_iff.1 hf), (decodePacket_rest hd).1]
  rfl

theorem exec_mac_of_packet {s : State} {nonce : Word} {len : BitVec 64} {msg rest : List Byte}
    (hf : s.fault = false) (hd : decodePacket s.inp = .ok (.mac nonce len msg, rest)) :
    exec (.mac nonce len msg) s = .next { s with
      nonce := some nonce, len := some len, msg := some msg, inp := rest, phase := .macCheck } := by
  change execMac nonce len msg s = _
  rw [execMac, if_neg (Bool.eq_false_iff.1 hf), (decodePacket_rest hd).1]
  rfl

theorem exec_illegal_of_packet {s : State} {b : Byte} {rest : List Byte} (hf : s.fault = false)
    (hd : decodePacket s.inp = .ok (.illegal b, rest)) :
    exec (.illegal b) s = .next { s with
      inp := rest, out := s.out ++ [0xFF], fault := true, phase := .faultHalt } := by
  change execIllegal b s = _
  rw [execIllegal, if_neg (Bool.eq_false_iff.1 hf), (decodePacket_rest hd).1]
  rfl

/-- Settles O34, by what the decoder reads in each case. -/
theorem idleLooksAtTheHeadOfIn : Obligations.IdleLooksAtTheHeadOfIn := by
  intro s hf
  refine ⟨fun hin => ?_, fun tl hin hl => ?_, fun tl hin hl => ?_, fun tl hin hl => ?_,
    fun tl len hin hl hfield => ⟨fun hshort => ?_, fun hwhole => ?_⟩, fun b rest hin h1 h2 => ?_⟩
  · exact exec_idle_of_stop (hin ▸ rfl : decodePacket s.inp = .error .empty)
  · exact exec_idle_of_stop (hin ▸ decodePacket_derive_of_lt hl)
  · have hd := hin ▸ decodePacket_derive_of_le hl
    rw [exec_idle_of_packet hd, exec_derive_of_packet hf hd]
  · exact exec_idle_of_stop (hin ▸ decodePacket_mac_of_header_lt hl)
  · have hd := decodePacket_mac_of_header hl hfield
    rw [if_pos hshort] at hd
    exact exec_idle_of_stop (hin ▸ hd)
  · have hd := decodePacket_mac_of_header hl hfield
    rw [if_neg (Nat.not_lt.2 hwhole), ← hin] at hd
    rw [exec_idle_of_packet hd, exec_mac_of_packet hf hd]
  · have hwf : (Instr.illegal b).wf = true := by simpa [Instr.wf] using And.intro h1 h2
    have hd : decodePacket s.inp = .ok (.illegal b, rest) :=
      hin ▸ decodePacket_encodeIllegal rest hwf
    rw [exec_idle_of_packet hd, exec_illegal_of_packet hf hd]

/-- Settles O31: the bytes are the encoding of the command, which decodes to it. -/
theorem deriveIsAccepted : Obligations.DeriveIsAccepted := fun _ key rest hf hin =>
  exec_derive_of_packet hf (hin ▸ decodePacket_encodeDerive key rest)

/-- Settles O32. -/
theorem macIsAccepted : Obligations.MacIsAccepted := by
  intro s nonce len msg rest hf hlen hin
  have hpacket : s.inp = encodePacket (.mac nonce len msg) ++ rest := by
    simpa [encodePacket, encode, codeBytes, encodeMac] using hin
  exact exec_mac_of_packet hf (hpacket ▸ decodePacket_encodeMac nonce rest hlen)

/-- Settles O42. -/
theorem stepRunsTheDecodedInstruction : Obligations.StepRunsTheDecodedInstruction := by
  refine fun s => ⟨fun i rest hp hd => ?_, fun e hp hd => ?_, fun i rest hp hd => ?_, step_idle⟩
  · rw [step, fetch_of_packet hp hd]
  · rw [step, fetch_of_stop hp hd]
  · cases hd.symm.trans (decode_phase (phaseOfCode_phaseCode s.phase))
    exact step_of_phase rfl hp

/-! ## The check of a MAC (R143, R165, R166) -/

theorem readLen_of_some {s : State} {len : BitVec 64} (h : s.len = some len) : s.readLen = len := by
  rw [State.readLen, h, Option.getD_some]

theorem macCheckEvent_short {len : BitVec 64} (h : len.toNat < 192) :
    macCheckEvent true len = some .shortMessage := by
  obtain ⟨hv, _⟩ | ⟨_, _, hshort⟩ | ⟨_, hge, _⟩ := macCheckEvent_cases true len
  · cases hv
  · exact hshort
  · omega

theorem exec_macCheck_of_some {s : State} {e : Event}
    (h : macCheckEvent s.ctxValid s.readLen = some e) : exec .macCheck s = .next (s.raise e) := by
  change execMacCheck s = _
  rw [execMacCheck, h]

theorem exec_macCheck_of_none {s : State} (h : macCheckEvent s.ctxValid s.readLen = none) :
    exec .macCheck s = .next (s.setPhase .auLoad) := by
  change execMacCheck s = _
  rw [execMacCheck, h]

/-- Settles O36. -/
theorem macCheckChecksContextThenLength : Obligations.MacCheckChecksContextThenLength := by
  intro s len hlen
  have hread : s.readLen = len := readLen_of_some hlen
  refine ⟨fun hv => ?_, fun hv h => ?_, fun hv h => ?_⟩
  · have hcheck : macCheckEvent s.ctxValid s.readLen = some .noContext := by rw [hv]; rfl
    exact exec_macCheck_of_some hcheck
  · have hcheck : macCheckEvent s.ctxValid s.readLen = some .shortMessage := by
      rw [hv, hread, macCheckEvent_short h]
    exact exec_macCheck_of_some hcheck
  · have hcheck : macCheckEvent s.ctxValid s.readLen = none := by
      rw [hv, hread, macCheckEvent_true h]
    exact exec_macCheck_of_none hcheck

end Sys2Proof.Machine
end

section
/-! PROOF SUPPORT. Whole commands (R141, R142, R145, R148, R163, R186): the work of a run, the runs that
end in a rejection or in the halt, each command as its atomic effect, and the end of every run. -/

namespace Sys2Proof.Machine

/-! ## The work of a DERIVE and of an accepted MAC (R186) -/

/-- A chain of steps whose rows all cost the same costs its length times that. -/
theorem workOfRun_chain {f : Nat → State} {m : Nat} {w : Work}
    (h : ∀ n < m, step (f n) = .next (f (n + 1))) (hw : ∀ n < m, phaseCost (f n).phase = w) :
    workOfRun m (f 0) = ⟨m * w.microOps, m * w.aesRounds, m * w.expansions⟩ := by
  induction m with
  | zero => simp [noWork]
  | succ m ih =>
    rw [workOfRun_add m 1 (run_chain f m fun n hn => h n (by omega)),
      ih (fun n hn => h n (by omega)) (fun n hn => hw n (by omega)),
      workOfRun_succ 0 (h m (by omega)), hw m (by omega), workOfRun_zero, addWork_noWork]
    simp [addWork, Nat.succ_mul]

/-- Accepting a command costs nothing (R186). -/
theorem workOfRun_accept {s t : State} (n : Nat) (hp : s.phase = .idle) (h : step s = .next t) :
    workOfRun (n + 1) s = workOfRun n t := by
  rw [workOfRun_succ n h, hp]
  exact noWork_addWork _

/-- CTX.INIT and CTX.POOL cost one encryption each (R102, R103). -/
theorem phaseCost_deriving (s : State) (key : Word) {n : Nat} (hn : n < 27) :
    phaseCost (s.deriving key n).phase = ⟨1, 10, 0⟩ := by
  by_cases h8 : n ≤ 8
  · simp [State.deriving, derivePhase, h8, phaseCost]
  · simp [State.deriving, derivePhase, h8, show n ≤ 26 by omega, phaseCost]

/-- Three key expansions, and an encryption for each of the 29 counters. -/
theorem workOfRun_derive {s : State} {key : Word} {rest : List Byte} (hp : s.phase = .idle)
    (hf : s.fault = false) (hin : s.inp = encodePacket (.derive key) ++ rest) :
    workOfRun 31 s = ⟨30, 290, 3⟩ := by
  have haccept : s.acceptDerive key = ((s.consume 17).latchKey key).setPhase .ctxKs := rfl
  have hwords (n : Nat) (hn : n < 27) := step_deriving (s.consume 17) key hn
  rw [workOfRun_accept 30 hp (step_accepts_derive hp hf hin), haccept,
    workOfRun_succ 29 (step_ctxKs _ key), workOfRun_add 27 2 (run_chain _ 27 hwords),
    workOfRun_chain hwords fun n hn => phaseCost_deriving _ key hn,
    workOfRun_succ 1 (step_derivingFk1 _ key), workOfRun_succ 0 (step_derivingFk2 _ key)]
  rfl

/-- The row of every round costs the eight AES rounds of `AURound` (R110). -/
theorem phaseCost_atRound (s : State) (n : Nat) : phaseCost (s.atRound n).phase = ⟨1, 8, 0⟩ := by
  rw [State.atRound, setPhase_phase, roundPhase]
  split_ifs <;> rfl

/-- The folds and the tag cost the ten AES rounds of R78 and R79. -/
theorem phaseCost_folding (s : State) (n : Nat) : phaseCost (s.folding n).phase = ⟨1, 10, 0⟩ := by
  rw [State.folding, setPhase_phase]
  split <;> rfl

/-- The load applies nothing, each of the `nfull + 4` rounds eight AES rounds, and each of the eleven
rows of the finalizer ten. -/
theorem workOfRun_fromLoad {s : State} (hlen : s.readMsg.length = s.readLen.toNat)
    (h : 192 ≤ s.readLen.toNat) :
    workOfRun (s.padIndex + 16) (s.setPhase .auLoad) =
      ⟨s.padIndex + 16, 8 * (s.padIndex + 4) + 110, 0⟩ := by
  have hP : s.padIndex = nfull s.readMsg.length := by rw [hlen, State.padIndex]
  have h3 : 3 ≤ s.padIndex := by simp only [State.padIndex, nfull]; omega
  have hrounds (n : Nat) (hn : n < s.padIndex + 3) := step_atRound hP h3 hn
  have hfolds (u : State) (n : Nat) (hn : n < 9) := step_folding u hn
  rw [show s.padIndex + 16 = s.padIndex + 3 + 12 + 1 by omega, workOfRun_succ _ (step_auLoad s),
    workOfRun_add _ 12 (run_chain s.atRound _ hrounds),
    workOfRun_chain hrounds fun n _ => phaseCost_atRound s n,
    workOfRun_succ 11 (step_auDrain3 hP), phaseCost_atRound, workOfRun_succ 10 (step_finNonce _),
    workOfRun_add 9 1 (run_chain (State.folding _) 9 (hfolds _)),
    workOfRun_chain (hfolds _) fun n _ => phaseCost_folding _ n,
    workOfRun_succ 0 (step_finTag _), phaseCost_folding]
  simp only [setPhase_phase, phaseCost, workOfRun_zero, addWork_noWork, addWork_mk, Work.mk.injEq]
  omega

theorem workOfRun_mac {s : State} {nonce : Word} {len : BitVec 64} {msg rest : List Byte}
    (hp : s.phase = .idle) (hf : s.fault = false) (hv : s.ctxValid = true)
    (hlen : msg.length = len.toNat) (h : 192 ≤ len.toNat)
    (hin : s.inp = encodePacket (.mac nonce len msg) ++ rest) :
    workOfRun (len.toNat / 64 + 18) s =
      ⟨len.toNat / 64 + 17, 8 * (len.toNat / 64 + 4) + 110, 0⟩ := by
  have hwork : workOfRun (len.toNat / 64 + 16)
      (((s.latchMac nonce len msg).consume (25 + len.toNat)).setPhase .auLoad) =
        ⟨len.toNat / 64 + 16, 8 * (len.toNat / 64 + 4) + 110, 0⟩ := workOfRun_fromLoad hlen h
  have hcheck : step (s.acceptMac nonce len msg) =
      .next (((s.latchMac nonce len msg).consume (25 + len.toNat)).setPhase .auLoad) :=
    step_macCheck hv h
  rw [workOfRun_accept (len.toNat / 64 + 17) hp (step_accepts_mac hp hf hlen hin),
    workOfRun_succ (len.toNat / 64 + 16) hcheck, hwork]
  simp only [State.acceptMac, setPhase_phase, phaseCost, addWork_mk, Work.mk.injEq, and_true]
  omega

/-! ## The atomic effects, store by store (R141, R142) -/

/-- The packet at the head of `IN` is removed whole: the bytes after it are left. -/
theorem drop_packetLength {i : Instr} {bs rest : List Byte} (hwf : i.wf = true)
    (hon : i.onStream = true) (hin : bs = encodePacket i ++ rest) :
    bs.drop (packetLength i) = rest := by
  rw [hin]
  exact (decodePacket_rest (decodePacket_encodePacket hwf hon rest)).1.symm

/-- What a DERIVE leaves from IDLE: the Context, the flag, the answer, and no working store. -/
theorem commandEffect_derive {s : State} {key : Word} {rest : List Byte} (hp : s.phase = .idle)
    (hin : s.inp = encodePacket (.derive key) ++ rest) :
    commandEffect (.derive key) s = { s with
      ctxInit := (deriveContext key).init.map some
      ctxPool := (deriveContext key).pool.map some
      ctxFk1 := some (deriveContext key).fk1
      ctxFk2 := some (deriveContext key).fk2
      ctxValid := true, inp := rest, out := s.out ++ [0x00]
      key := none, ki := none, c := none } := by
  rw [hp, ← drop_packetLength rfl rfl hin]
  rfl

/-- What an accepted MAC leaves from IDLE: the answer, and no working store. -/
theorem commandEffect_mac {s : State} {nonce tag : Word} {len : BitVec 64} {msg rest : List Byte}
    (hp : s.phase = .idle) (hv : s.ctxValid = true) (hwf : (Instr.mac nonce len msg).wf = true)
    (ht : computeTag s.context nonce msg = .ok tag)
    (hin : s.inp = encodePacket (.mac nonce len msg) ++ rest) :
    commandEffect (.mac nonce len msg) s = { s with
      inp := rest, out := s.out ++ 0x00 :: wordBytes tag
      x := none, t0 := none, nonce := none, len := none, msg := none, hist := none
      t := none, i := none } := by
  rw [commandEffect_mac_ok hv ht, hp, ← drop_packetLength hwf rfl hin]
  rfl

/-- Settles O55. -/
theorem deriveCommandIsDeriveContext : Obligations.DeriveCommandIsDeriveContext := by
  intro s key rest hp hf hin
  have hstep := step_accepts_derive hp hf hin
  have hfetch := fetch_of_packet hp (hin ▸ decodePacket_encodeDerive key rest)
  refine ⟨s.acceptDerive key, ?_, hstep, ?_, workOfRun_derive hp hf hin⟩
  · rw [← hstep, step, hfetch]
  · rw [← run_succ 30 hstep, run_derive hp hf hin, commandEffect_derive hp hin]

/-- Settles O56. -/
theorem macCommandIsComputeTag : Obligations.MacCommandIsComputeTag := by
  intro s nonce len msg rest hp hf hv hlen h hin
  have hwf : (Instr.mac nonce len msg).wf = true := by simpa [Instr.wf] using hlen
  have htag := computeTag_ok s.context nonce (hlen ▸ h : 192 ≤ msg.length)
  have hstep := step_accepts_mac hp hf hlen hin
  have hfetch := fetch_of_packet hp (hin ▸ decodePacket_encodeMac nonce rest hlen)
  refine ⟨_, s.acceptMac nonce len msg, htag, ?_, hstep, ?_, workOfRun_mac hp hf hv hlen h hin⟩
  · rw [← hstep, step, hfetch]
  · rw [← run_succ (len.toNat / 64 + 17) hstep, run_mac hp hf hv hlen h hin,
      commandEffect_mac hp hv hwf htag hin]

/-! ## Rejection and halt (R161 to R163, R166) -/

/-- MAC.CHECK raises no event but the two errors. -/
theorem ne_illegalCommand_of_macCheckEvent {v : Bool} {len : BitVec 64} {e : Event}
    (h : macCheckEvent v len = some e) : e ≠ .illegalCommand := by
  obtain ⟨_, hc⟩ | ⟨_, _, hc⟩ | ⟨_, _, hc⟩ := macCheckEvent_cases v len <;> cases hc.symm.trans h <;>
    decide

/-- An error leaves nothing of the MAC it ends but its answer (R166). -/
theorem acceptMac_raise (s : State) (nonce : Word) (len : BitVec 64) (msg : List Byte) {e : Event}
    (he : e ≠ .illegalCommand) :
    (s.acceptMac nonce len msg).raise e = (s.consume (25 + len.toNat)).raise e := by
  cases e with
  | shortMessage | noContext => rfl
  | illegalCommand => exact absurd rfl he

/-- A MAC that the checks reject, taken as one step, raises their error (R142, R143). -/
theorem commandEffect_mac_rejected {s : State} {nonce : Word} {len : BitVec 64} {msg : List Byte}
    {e : Event} (hlen : msg.length = len.toNat) (h : macCheckEvent s.ctxValid len = some e) :
    commandEffect (.mac nonce len msg) s = (s.consume (25 + len.toNat)).raise e := by
  obtain ⟨hv, hc⟩ | ⟨hv, hlt, hc⟩ | ⟨_, _, hc⟩ := macCheckEvent_cases s.ctxValid len <;>
    cases hc.symm.trans h
  · simp only [commandEffect, hv, if_true]
    rfl
  · have hshort : computeTag s.context nonce msg = .error .shortMessage := if_pos (hlen ▸ hlt)
    simp only [commandEffect, hv, hshort, Bool.true_eq_false, if_false]
    rfl

/-- A MAC that the checks reject is its acceptance and MAC.CHECK. -/
theorem run_rejectedMac {s : State} {nonce : Word} {len : BitVec 64} {msg rest : List Byte}
    {e : Event} (hp : s.phase = .idle) (hf : s.fault = false) (hlen : msg.length = len.toNat)
    (he : macCheckEvent s.ctxValid len = some e)
    (hin : s.inp = encodePacket (.mac nonce len msg) ++ rest) :
    Sys2Proof.core.run 2 s = .next (commandEffect (.mac nonce len msg) s) ∧
      workOfRun 2 s = ⟨1, 0, 0⟩ := by
  have haccept := step_accepts_mac hp hf hlen hin
  have hcheck : step (s.acceptMac nonce len msg) = .next ((s.acceptMac nonce len msg).raise e) :=
    (step_of_phase (p := .macCheck) rfl (by decide)).trans (exec_macCheck_of_some he)
  constructor
  · rw [run_succ 1 haccept, run_succ 0 hcheck, run_zero, commandEffect_mac_rejected hlen he,
      acceptMac_raise s nonce len msg (ne_illegalCommand_of_macCheckEvent he)]
  · rw [workOfRun_accept 1 hp haccept, workOfRun_succ 0 hcheck]
    rfl

/-- An illegal opcode is handled in IDLE, without a micro-operation (R163). -/
theorem run_illegal {s : State} {b : Byte} {rest : List Byte} (hp : s.phase = .idle)
    (hf : s.fault = false) (hd : decodePacket s.inp = .ok (.illegal b, rest)) :
    Sys2Proof.core.run 1 s = .next s.acceptIllegal ∧ workOfRun 1 s = ⟨0, 0, 0⟩ := by
  have hstep : step s = .next s.acceptIllegal := by
    rw [step, fetch_of_packet hp hd]
    exact congrArg Host.Outcome.next (if_neg (Bool.eq_false_iff.1 hf))
  exact ⟨run_succ 0 hstep, workOfRun_accept 0 hp hstep⟩

/-! ## Every command is its atomic effect (R145, R186) -/

/-- A MAC, whatever the checks say of it, is its atomic effect, at the cost of its line of the
table. -/
theorem run_mac_commandEffect {s : State} {nonce : Word} {len : BitVec 64} {msg rest : List Byte}
    (hp : s.phase = .idle) (hf : s.fault = false) (hlen : msg.length = len.toNat)
    (hin : s.inp = encodePacket (.mac nonce len msg) ++ rest) :
    Sys2Proof.core.run (microOps (.mac nonce len msg) s.ctxValid + 1) s =
        .next (commandEffect (.mac nonce len msg) s) ∧
      workOfRun (microOps (.mac nonce len msg) s.ctxValid + 1) s =
        commandWork (.mac nonce len msg) s.ctxValid := by
  cases hc : macCheckEvent s.ctxValid len with
  | some e =>
    have hrun := run_rejectedMac hp hf hlen hc hin
    simpa only [microOps, commandWork, hc, Option.isSome_some, if_true] using hrun
  | none =>
    obtain ⟨_, h⟩ | ⟨_, _, h⟩ | ⟨hv, h, _⟩ := macCheckEvent_cases s.ctxValid len
    · cases h.symm.trans hc
    · cases h.symm.trans hc
    · have hrun := And.intro (run_mac hp hf hv hlen h hin) (workOfRun_mac hp hf hv hlen h hin)
      simpa only [microOps, commandWork, hc, nfull, Option.isSome_none, Bool.false_eq_true,
        if_false] using hrun

/-- Every command, run step by step, is the command taken as one step. -/
theorem run_command {s : State} {i : Instr} {rest : List Byte} (hp : s.phase = .idle)
    (hf : s.fault = false) (hwf : i.wf = true) (hon : i.onStream = true)
    (hin : s.inp = encodePacket i ++ rest) :
    Sys2Proof.core.run (microOps i s.ctxValid + 1) s = .next (commandEffect i s) ∧
      workOfRun (microOps i s.ctxValid + 1) s = commandWork i s.ctxValid := by
  cases i with
  | derive key => exact ⟨run_derive hp hf hin, workOfRun_derive hp hf hin⟩
  | mac nonce len msg => exact run_mac_commandEffect hp hf (by simpa [Instr.wf] using hwf) hin
  | illegal b => exact run_illegal hp hf (hin ▸ decodePacket_encodeIllegal rest hwf)
  | _ => cases hon

/-- Settles O58. -/
theorem commandIsItsAtomicEffect : Obligations.CommandIsItsAtomicEffect :=
  ⟨fun _ _ _ hp hf hwf hon hin => run_command hp hf hwf hon hin, meteredEncrypt_eq,
    meteredPermuteTruncated_eq, meteredAuRound_eq, fun _ => rfl⟩

/-! ## Every run comes to rest (R148) -/

/-- A waiting block is halted, or in IDLE with nothing to accept. -/
theorem waiting_iff (s : State) :
    s.waiting = true ↔ s.phase = .faultHalt ∨
      (s.phase = .idle ∧ (s.fault = true ∨ ∃ e, decodePacket s.inp = .error e)) := by
  unfold State.waiting
  cases hd : decodePacket s.inp <;> simp

theorem step_of_waiting {s : State} (h : s.waiting = true) : step s = .next s := by
  obtain hp | ⟨hp, hf | ⟨e, hd⟩⟩ := (waiting_iff s).1 h
  · exact step_of_phase hp (by decide)
  · rw [step_idle hp, State.acceptCommand, if_pos hf]
  · rw [step_idle hp]
    exact exec_idle_of_stop hd

/-- In IDLE a block that does not wait has a whole packet of a command before it. -/
theorem packet_of_not_waiting {s : State} (hp : s.phase = .idle) (h : s.waiting ≠ true) :
    s.fault = false ∧ ∃ i rest, decodePacket s.inp = .ok (i, rest) := by
  rw [ne_eq, waiting_iff] at h
  cases hd : decodePacket s.inp with
  | error e => exact absurd (.inr ⟨hp, .inr ⟨e, hd⟩⟩) h
  | ok r => exact ⟨Bool.eq_false_iff.2 fun hf => h (.inr ⟨hp, .inl hf⟩), r.1, r.2, rfl⟩

/-- The acceptance and the micro-operations of a command are at most two steps for each byte of its
packet: 31 for 17, and `nfull + 18` or 2 for `25 + L`, and 1 for 1. -/
theorem microOps_le (i : Instr) (v : Bool) (hon : i.onStream = true) :
    microOps i v + 1 ≤ 2 * packetLength i := by
  cases i with
  | derive key => simp [microOps, packetLength]
  | mac nonce len msg =>
    simp only [microOps, packetLength, nfull]
    split <;> omega
  | illegal b => simp [microOps, packetLength]
  | _ => cases hon

/-- A command ends in IDLE with the bytes after its packet on `IN`, or in the halt. -/
theorem commandEffect_rest {s : State} {i : Instr} (hwf : i.wf = true) (hon : i.onStream = true) :
    (commandEffect i s).phase = .faultHalt ∨
      (commandEffect i s).phase = .idle ∧ (commandEffect i s).inp = s.inp.drop (packetLength i) := by
  cases i with
  | derive key => exact .inr ⟨rfl, rfl⟩
  | mac nonce len msg =>
    simp only [commandEffect]
    split
    · exact .inr ⟨rfl, rfl⟩
    · split <;> exact .inr ⟨rfl, rfl⟩
  | illegal b => exact .inl rfl
  | _ => cases hon

/-- By induction on the bytes of `IN`: each command takes at most two steps for each byte of its
packet, and leaves the block waiting or in IDLE before the bytes that are left. -/
theorem comesToRest {s : State} (hp : s.phase = .idle) :
    ∃ n t, n ≤ 2 * s.inp.length ∧ Sys2Proof.core.run n s = .next t ∧ t.waiting = true := by
  induction hk : s.inp.length using Nat.strong_induction_on generalizing s with
  | _ k ih =>
    subst hk
    by_cases hw : s.waiting = true
    · exact ⟨0, s, Nat.zero_le _, rfl, hw⟩
    obtain ⟨hf, i, rest, hd⟩ := packet_of_not_waiting hp hw
    have hwf := decodePacket_wf hd
    have hon := decodePacket_onStream hd
    obtain ⟨hrun, _⟩ := run_command hp hf hwf hon (encodePacket_of_decodePacket hd).symm
    have hsteps := microOps_le i s.ctxValid hon
    have hlen := (decodePacket_rest hd).2
    obtain hhalt | ⟨hidle, hrest⟩ := commandEffect_rest (s := s) hwf hon
    · exact ⟨_, _, by omega, hrun, (waiting_iff _).2 (.inl hhalt)⟩
    · have hleft : (commandEffect i s).inp.length = s.inp.length - packetLength i := by
        rw [hrest, List.length_drop]
      obtain ⟨n, t, hn, hrun', ht⟩ := ih _ (by omega) hidle hleft
      exact ⟨_, t, by omega, (run_add _ n hrun).trans hrun', ht⟩

/-- Settles O60. -/
theorem everyRunComesToRest : Obligations.EveryRunComesToRest :=
  ⟨fun _ => comesToRest, fun _ => step_of_waiting⟩

end Sys2Proof.Machine
end

section
/-! PROOF SUPPORT. The exceptions (R161 to R168): a rejected MAC that leaves a sound block as it was,
the illegal opcode, the halt, and the rows that all answer a next state. -/

namespace Sys2Proof.Machine

/-! ## A rejected MAC (R161, R162, R165, R166) -/

theorem noMacLatch_iff (s : State) :
    s.noMacLatch = true ↔ s.nonce = none ∧ s.len = none ∧ s.msg = none := by
  simp [State.noMacLatch, and_assoc]

/-- Before a command is accepted, a sound block has no fault and holds no operand of a MAC (R24). -/
theorem idle_of_sound {s : State} (hs : s.sound = true) (hp : s.phase = .idle) :
    s.fault = false ∧ s.noMacLatch = true := by
  obtain ⟨hstaged, _, hfault⟩ := (sound_iff s).1 hs
  obtain ⟨_, hlatch, _⟩ := (staged_idle (.inl hp)).1 hstaged
  refine ⟨Bool.eq_false_iff.2 fun hf => ?_, hlatch⟩
  cases hp.symm.trans (hfault.1 hf)

/-- Latches that already hold no value are dropped without a change. -/
theorem dropMacLatches_of_noMacLatch {s : State} (h : s.noMacLatch = true) :
    s.dropMacLatches = s := by
  obtain ⟨hnonce, hlen, hmsg⟩ := (noMacLatch_iff s).1 h
  rw [State.dropMacLatches, ← hnonce, ← hmsg, ← hlen]

/-- An error raised in IDLE over empty latches adds its one byte to `OUT`, and nothing else (R166). -/
theorem raise_of_noMacLatch {s : State} {e : Event} (hp : s.phase = .idle)
    (h : s.noMacLatch = true) (he : e ≠ .illegalCommand) : s.raise e = s.emit [eventCode e] := by
  have hdrop : (s.emit [eventCode e]).dropMacLatches = s.emit [eventCode e] :=
    dropMacLatches_of_noMacLatch h
  have hraise : s.raise e = ((s.emit [eventCode e]).dropMacLatches).setPhase .idle := by
    cases e with
    | shortMessage | noContext => rfl
    | illegalCommand => exact absurd rfl he
  rw [hraise, hdrop, State.setPhase, ← hp]
  rfl

/-- A MAC rejected by either check is its packet taken off `IN` and one byte put on `OUT`. -/
theorem rejectedMac_leaves_sound {s : State} {nonce : Word} {len : BitVec 64} {msg rest : List Byte}
    {e : Event} (hs : s.sound = true) (hp : s.phase = .idle) (hlen : msg.length = len.toNat)
    (hin : s.inp = encodePacket (.mac nonce len msg) ++ rest)
    (he : macCheckEvent s.ctxValid len = some e) :
    Sys2Proof.core.run 2 s = .next { s with inp := rest, out := s.out ++ [eventCode e] } ∧
      workOfRun 2 s = ⟨1, 0, 0⟩ := by
  obtain ⟨hf, hlatch⟩ := idle_of_sound hs hp
  obtain ⟨hrun, hwork⟩ := run_rejectedMac hp hf hlen he hin
  have hwf : (Instr.mac nonce len msg).wf = true := by simpa [Instr.wf] using hlen
  have hrest : s.inp.drop (25 + len.toNat) = rest := drop_packetLength hwf rfl hin
  have heffect : commandEffect (.mac nonce len msg) s =
      (s.consume (25 + len.toNat)).emit [eventCode e] :=
    (commandEffect_mac_rejected hlen he).trans
      (raise_of_noMacLatch hp hlatch (ne_illegalCommand_of_macCheckEvent he))
  rw [heffect, State.consume, hrest] at hrun
  exact ⟨hrun, hwork⟩

/-- Settles O57: the Context is asked for first, then the length. -/
theorem rejectedMacLeavesTheBlockAsItWas : Obligations.RejectedMacLeavesTheBlockAsItWas := by
  intro s nonce len msg rest hs hp hlen hin
  refine ⟨fun hv => ?_, fun hv hshort => ?_⟩
  · have hevent : macCheckEvent s.ctxValid len = some .noContext := by rw [hv]; rfl
    exact rejectedMac_leaves_sound hs hp hlen hin hevent
  · have hevent : macCheckEvent s.ctxValid len = some .shortMessage :=
      hv ▸ macCheckEvent_short hshort
    exact rejectedMac_leaves_sound hs hp hlen hin hevent

/-! ## The illegal opcode and the halt (R163, R180) -/

/-- Any byte that is no opcode is by itself the packet of the row (illegal) (R55). -/
theorem decodePacket_illegal {b : Byte} (rest : List Byte) (h1 : b ≠ 0x01) (h2 : b ≠ 0x02) :
    decodePacket (b :: rest) = .ok (.illegal b, rest) :=
  decodePacket_encodeIllegal rest (by simpa [Instr.wf] using And.intro h1 h2)

/-- Settles O33. -/
theorem illegalOpcodeHaltsTheBlock : Obligations.IllegalOpcodeHaltsTheBlock :=
  fun _ _ rest hf h1 h2 hin => exec_illegal_of_packet hf (hin ▸ decodePacket_illegal rest h1 h2)

/-- The halt lasts over any number of steps. -/
theorem run_faultHalt {s : State} (n : Nat) (hp : s.phase = .faultHalt) :
    Sys2Proof.core.run n s = .next s :=
  run_fixed n (step_of_waiting ((waiting_iff s).2 (.inl hp)))

/-- Settles O37: what the host writes leaves `PHASE`, so the halt lasts over it. -/
theorem haltLastsUntilReset : Obligations.HaltLastsUntilReset := fun s n bs hp =>
  ⟨rfl, run_faultHalt n hp, run_faultHalt n ((hostSend_phase s bs).trans hp), rfl⟩

/-! ## Every row answers a next state (R168) -/

/-- Settles O49, row by row: each is a total function of the state. A check that fails and a store
without value are branches inside the next state, not outcomes of their own. -/
theorem everyRowAnswersANextState : Obligations.EveryRowAnswersANextState := by
  intro i s
  cases i with
  | derive | mac | illegal | idle => exact ⟨_, rfl⟩
  | ctxKs | ctxInit | ctxPool | ctxFk1 | ctxFk2 => exact ⟨_, rfl⟩
  | macCheck | auLoad => exact ⟨_, rfl⟩
  | auWarmup1 | auWarmup2 | auWarmup3 | auSteady | auPad => exact ⟨_, rfl⟩
  | auDrain1 | auDrain2 | auDrain3 => exact ⟨_, rfl⟩
  | finNonce | finFold | finTag => exact ⟨_, rfl⟩
  | faultHalt => exact ⟨_, rfl⟩

end Sys2Proof.Machine
end
